-- ==== Sys2Proof/Word.lean ====
section
/-! DEFINITION. The words of the machine: bytes, and the seven address bits of a control byte.

R10 (`00_scope.md`): a byte is 8 bits, bit 7 the most significant; all values are unsigned.
-/

namespace Sys2Proof

/-- A byte (R10): the width `DATA_W` of a device register, of a frame's data field and of the
integrity code `CRC_W` (R8). -/
abbrev Byte := BitVec 8

/-- Bits 7 down to 1 of a control byte, chip address ‖ register address (R47): the address of one
register on the serial link. -/
abbrev LinkAddr := BitVec 7

end Sys2Proof
end

