-- ==== Sys2Proof/Config.lean ====
section
/-! DEFINITION. The parameters of R8 (`00_scope.md`), and the free values of the model.

The parameters whose status is OPEN are fields of `Config`; the model reads them from `State.cfg`
and no definition assumes a value for one (log 1). The free values at the end have no body: nothing
can be proved about what they are.
-/

namespace Sys2Proof

/-- The direction flag of the CRC engine (R61): `outbound` is the spec's `OUT`, `inbound` its `IN`. -/
inductive Dir where
  | outbound
  | inbound
deriving DecidableEq, Repr

/-- Where the CRC-enabled flag comes from at INIT (R8 `CRC_SRC`, R16). -/
inductive CrcSource where
  /-- one GPIO read -/
  | strap
  /-- the INIT operand -/
  | config
deriving DecidableEq, Repr

/-- The parameters of R8, in the order of its table, those fixed by the source left out. -/
structure Config where
  /-- `CHIP_ADDR_W`, 1 to 6 -/
  chipAddrW : Nat
  /-- `REG_ADDR_MAX` -/
  regAddrMax : Nat
  /-- `CH_COUNT` -/
  chCount : Nat
  /-- `CRC_POLY`, the x^8 term implied -/
  crcPoly : Byte
  /-- `CRC_INIT_OUT` -/
  crcInitOut : Byte
  /-- `CRC_INIT_IN` -/
  crcInitIn : Byte
  /-- `CRC_REFIN` -/
  crcRefIn : Bool
  /-- `CRC_REFOUT` -/
  crcRefOut : Bool
  /-- `CRC_XOROUT` -/
  crcXorOut : Byte
  /-- `CRC_SRC` -/
  crcSrc : CrcSource
  /-- `FAULT_REGS`, in order -/
  faultRegs : List Nat
  /-- `E_INVAL` -/
  eInval : Int
  /-- `E_TRANSPORT` -/
  eTransport : Int
  /-- `E_INTEGRITY` -/
  eIntegrity : Int
  /-- `E_NOMEM` -/
  eNomem : Int
deriving DecidableEq, Repr

/-- `REG_ADDR_W` = 7 − `CHIP_ADDR_W` (R8, decision D4). -/
abbrev Config.regAddrW (c : Config) : Nat := 7 - c.chipAddrW

/-- The constraints R8 puts on the parameters. -/
abbrev Config.Valid (c : Config) : Prop :=
  1 ≤ c.chipAddrW ∧ c.chipAddrW ≤ 6 ∧ c.regAddrMax < 2 ^ c.regAddrW ∧ 1 ≤ c.chCount ∧
    c.crcPoly.getLsbD 0 = true ∧ ∀ a ∈ c.faultRegs, a ≤ c.regAddrMax

/-- The reference column of R8. The spec's own choice, for its test vectors; the four error codes,
for which R8 names no reference, are 0 here (log 1). No statement rests on these values but the
ones about the spec's vectors. -/
def Config.reference : Config where
  chipAddrW := 2
  regAddrMax := 31
  chCount := 4
  crcPoly := 0x07
  crcInitOut := 0x00
  crcInitIn := 0x00
  crcRefIn := false
  crcRefOut := false
  crcXorOut := 0x00
  crcSrc := .config
  faultRegs := []
  eInval := 0
  eTransport := 0
  eIntegrity := 0
  eNomem := 0

/-- The transport's error value: opaque to the block, passed on unchanged (R99, U13). -/
abbrev TransportError := Int

/-- The three bytes of a frame buffer, or the bytes a response clocks in (R13, R23). -/
structure FrameBuffer where
  b0 : Byte
  b1 : Byte
  b2 : Byte
deriving DecidableEq, Repr, Inhabited

/-- The result of one `Exchange` (R11, R23): `ok rx`, of which an exchange of n bytes takes the
first n, so that a response always has the length of its request, or `fail e`. -/
inductive Answer where
  | ok (rx : FrameBuffer)
  | fail (e : TransportError)
deriving DecidableEq, Repr, Inhabited

/-- Everything the transport and the remote device behind it do at one exchange. All of it is free
(R23, R119, U4, U19; log 3, 6, 7). -/
structure Draw where
  /-- what the block gets back -/
  answer : Answer
  /-- whether the frame took effect in the device where the spec leaves that open: a write (R72),
  an exchange that failed (R99, U8), a read frame with a CRC byte other than that of R48 (U19) -/
  taken : Bool
  /-- registers the device changes by itself before the frame arrives (R25 c, R119) -/
  drift : List (LinkAddr × Byte)
  /-- fault latches the device sets by itself before the frame arrives (R25 a) -/
  latch : List LinkAddr
  /-- register changes the device attaches to a read that took effect (R38, R71) -/
  readEffect : List (LinkAddr × Byte)
deriving DecidableEq, Repr, Inhabited

/-- One entry of the stream of transport answers: a draw, or an exchange that never returns (U18). -/
inductive Exchange where
  | answered (d : Draw)
  | never
deriving DecidableEq, Repr

/-- The registers of an instance that is no longer there (R26, R95). -/
structure Leftover where
  chipAddr : Nat
  crcEn : Bool
  fb : FrameBuffer
deriving DecidableEq, Repr, Inhabited

/-- FREE VALUE (log 3): what the transport and the device do at exchange number n, when no answer
is waiting in `State.script`. -/
opaque Config.freeDraw : Nat → Draw

/-- FREE VALUE (log 4): the answer of `GpioRead()` number n, when none is waiting in `State.straps`. -/
opaque Config.freeStrap : Nat → Bool

/-- FREE VALUE (log 11): what the registers of a destroyed instance hold, the n-th time. -/
opaque Config.freeInstance : Nat → Leftover

/-- FREE VALUE (log 29): the value the host shows for an index that lies outside a quantization table,
which R86 does not describe. -/
opaque Config.freeTableValue : Nat → Nat

end Sys2Proof
end

