-- ==== Sys2Proof/Machine/Crc.lean ====
section
/-! DEFINITION. The CRC engine's function (R60, `40_crc_engine.md`). Every constant is a parameter. -/

namespace Sys2Proof.Machine

/-- `rev8`: bit i of the result is bit 7 − i of the argument (R10). -/
def rev8 (v : Byte) : Byte := v.reverse

/-- One step of the inner loop of R60: shift left, and xor the polynomial when bit 7 was 1. -/
def crcShift (poly c : Byte) : Byte :=
  if c.getLsbD 7 then (c <<< 1) ^^^ poly else c <<< 1

/-- `n` steps of the inner loop. -/
def crcShifts (poly : Byte) : Nat → Byte → Byte
  | 0, c => c
  | n + 1, c => crcShifts poly n (crcShift poly c)

/-- One pass of the outer loop of R60: byte `b` enters the working register `c`. -/
def crcByte (cfg : Config) (c b : Byte) : Byte :=
  crcShifts cfg.crcPoly 8 (c ^^^ (if cfg.crcRefIn then rev8 b else b))

/-- The initial value of the working register, which the direction flag selects (R60, R61). -/
def crcInit (cfg : Config) : Dir → Byte
  | .outbound => cfg.crcInitOut
  | .inbound => cfg.crcInitIn

/-- The end of R60: optional reflection, then the final xor. -/
def crcFinish (cfg : Config) (c : Byte) : Byte :=
  (if cfg.crcRefOut then rev8 c else c) ^^^ cfg.crcXorOut

/-- `CRC8(b0, b1, dir)` (R60): `b0` first. -/
def crc8 (cfg : Config) (b0 b1 : Byte) (dir : Dir) : Byte :=
  crcFinish cfg (crcByte cfg (crcByte cfg (crcInit cfg dir) b0) b1)

/-- `VERIFY(b0, b1, expected)` (R63): always the `IN` direction, all eight bits compared. -/
def crcVerify (cfg : Config) (b0 b1 expected : Byte) : Bool :=
  crc8 cfg b0 b1 .inbound == expected

end Sys2Proof.Machine
end

