-- ==== Sys2Proof/Machine/FrameLayout.lean ====
section
/-! DEFINITION. The layout of frames (R45 to R53, `30_encoding.md`): their length, the control byte
and its inverse, and the bytes of each request. -/

namespace Sys2Proof.Machine

/-- `FLEN(c)` = 2 + (1 if c else 0) (R9, R45). -/
def flen (crcEnabled : Bool) : Nat := if crcEnabled then 3 else 2

/-- `chip` fits its field of the control byte (R47). -/
def chipFits (cfg : Config) (chip : Nat) : Bool := chip < 2 ^ cfg.chipAddrW

/-- `reg` fits its field of the control byte (R47). -/
def regFits (cfg : Config) (reg : Nat) : Bool := reg < 2 ^ cfg.regAddrW

/-- The three fields of a control byte. -/
structure ControlFields where
  chip : Nat
  reg : Nat
  rw : Bool
deriving DecidableEq, Repr

/-- `CTRL(chip, reg, rw) = ((chip << (8 − A)) | (reg << 1) | rw) & 0xFF` (R47). -/
def ctrl (cfg : Config) (chip reg : Nat) (rw : Bool) : Byte :=
  BitVec.ofNat 8 ((chip <<< (8 - cfg.chipAddrW)) ||| (reg <<< 1) ||| rw.toNat)

/-- The inverse of `CTRL` (R52): `chip = ctrl[7 : 8 − A]`, `reg = ctrl[7 − A : 1]`, `rw = ctrl[0]`. -/
def splitCtrl (cfg : Config) (c : Byte) : ControlFields where
  chip := c.toNat >>> (8 - cfg.chipAddrW)
  reg := (c.toNat >>> 1) % 2 ^ cfg.regAddrW
  rw := c.getLsbD 0

/-- Bits 7 down to 1 of a control byte. -/
def linkAddr (c : Byte) : LinkAddr := c.extractLsb' 1 7

/-- The key in `State.remote` and `State.latched` of register `reg` of chip `chip` (R28, R29). -/
def linkKey (cfg : Config) (chip reg : Nat) : Nat := (linkAddr (ctrl cfg chip reg false)).toNat

/-- The frame that carries control byte `c` and data byte `d`: `[c, d]`, with the outbound CRC
behind it when CRC mode is on (R46, R48). -/
def requestFrame (cfg : Config) (c d : Byte) (crcEnabled : Bool) : List Byte :=
  if crcEnabled then [c, d, crc8 cfg c d .outbound] else [c, d]

/-- `ENC_WRITE` (R65). -/
def encWrite (cfg : Config) (chip reg : Nat) (data : Byte) (crcEnabled : Bool) : List Byte :=
  requestFrame cfg (ctrl cfg chip reg true) data crcEnabled

/-- `ENC_READ` (R66): the data byte is 0x00 (R51). -/
def encRead (cfg : Config) (chip reg : Nat) (crcEnabled : Bool) : List Byte :=
  requestFrame cfg (ctrl cfg chip reg false) 0x00 crcEnabled

end Sys2Proof.Machine
end

