-- ==== Sys2Proof/Syntax.lean ====
section
/-! DEFINITION. The instructions: the 18 rows of `spec/opcode_table.json`, operands as in R57
(`30_encoding.md`). R2: an instruction is one of the block's operations or one frame on the link.
-/

namespace Sys2Proof

/-- The two ways a register operand is formed (R75): given, or base + channel index. -/
inductive RegOperand where
  | direct (reg : Nat)
  | banked (base ch : Nat)
deriving DecidableEq, Repr

/-- One constructor per row of the opcode table. -/
inductive Instr where
  /-- REGWR.F16: write request, `CRC_EN` = 0 (R46, R47) -/
  | regwrF16 (chip reg : Nat) (data : Byte)
  /-- REGRD.F16: read request, `CRC_EN` = 0, data byte 0x00 (R46, R51) -/
  | regrdF16 (chip reg : Nat)
  /-- REGWR.F24: write request, `CRC_EN` = 1 (R48) -/
  | regwrF24 (chip reg : Nat) (data crc : Byte)
  /-- REGRD.F24: read request, `CRC_EN` = 1, data byte 0x00 (R48, R51) -/
  | regrdF24 (chip reg : Nat) (crc : Byte)
  /-- RSP.R16: response, `CRC_EN` = 0 (R49) -/
  | rspR16 (rx0 rdata : Byte)
  /-- RSP.R24: response, `CRC_EN` = 1 (R50) -/
  | rspR24 (rx0 rdata rcrc : Byte)
  /-- CRC.COMPUTE b0, b1, dir (R60) -/
  | crcCompute (b0 b1 : Byte) (dir : Dir)
  /-- CRC.VERIFY b0, b1, expected (R63) -/
  | crcVerify (b0 b1 expected : Byte)
  /-- ENC.WRITE chip, reg, data, crc_enabled (R65) -/
  | encWrite (chip reg : Nat) (data : Byte) (crcEnabled : Bool)
  /-- ENC.READ chip, reg, crc_enabled (R66) -/
  | encRead (chip reg : Nat) (crcEnabled : Bool)
  /-- DEC.RESP [bytes], crc_enabled (R67) -/
  | decResp (f : List Byte) (crcEnabled : Bool)
  /-- REG.READ reg (R71) -/
  | regRead (reg : RegOperand)
  /-- REG.WRITE reg, data (R72) -/
  | regWrite (reg : RegOperand) (data : Byte)
  /-- REG.UPDATE reg, mask, value (R73) -/
  | regUpdate (reg : RegOperand) (mask value : Byte)
  /-- DBG.READ addr (R76) -/
  | dbgRead (addr : Nat)
  /-- DBG.WRITE addr, val (R77) -/
  | dbgWrite (addr : Nat) (val : Byte)
  /-- INIT chip_addr, crc_en (R94) -/
  | init (chipAddr : Nat) (crcEn : Bool)
  /-- TEARDOWN (R95) -/
  | teardown
deriving DecidableEq, Repr

/-- What the host puts in the block's command stream (R20, R96, R110; log 9, 27). -/
inductive Command where
  /-- an operation, or a frame given by its fields -/
  | op (i : Instr)
  /-- the bytes of a frame, travelling in the given direction -/
  | frame (dir : Dir) (bytes : List Byte)
  /-- the fault-notification callback: one register read (R96) -/
  | callback (reg : Nat)
deriving DecidableEq, Repr

end Sys2Proof
end

