-- ==== Sys2Proof/WellFormed.lean ====
section
/-! DEFINITION. Which operands an instruction may carry, for given parameters: each field of a frame
fits its bits (R47), the CRC byte of a 24-bit request is the one R48 gives, the encoders' operands
lie in their domain (R65, R66). Operands of the register operations are any unsigned integers: an
address out of range is an error of the operation, not of its form (R74). -/

namespace Sys2Proof

open Sys2Proof.Machine in
/-- The instruction's operands are ones the spec admits for it. -/
def Instr.wellFormed (cfg : Config) : Instr → Bool
  | .regwrF16 chip reg _ => chipFits cfg chip && regFits cfg reg
  | .regrdF16 chip reg => chipFits cfg chip && regFits cfg reg
  | .regwrF24 chip reg data crc =>
      chipFits cfg chip && regFits cfg reg && crc == crc8 cfg (ctrl cfg chip reg true) data .outbound
  | .regrdF24 chip reg crc =>
      chipFits cfg chip && regFits cfg reg && crc == crc8 cfg (ctrl cfg chip reg false) 0x00 .outbound
  | .rspR16 _ _ => true
  | .rspR24 _ _ _ => true
  | .crcCompute _ _ _ => true
  | .crcVerify _ _ _ => true
  | .encWrite chip reg _ _ => chipFits cfg chip && regFits cfg reg
  | .encRead chip reg _ => chipFits cfg chip && regFits cfg reg
  | .decResp _ _ => true
  | .regRead _ => true
  | .regWrite _ _ => true
  | .regUpdate _ _ _ => true
  | .dbgRead _ => true
  | .dbgWrite _ _ => true
  | .init _ _ => true
  | .teardown => true

end Sys2Proof
end

