-- ==== Sys2Proof/Decode.lean ====
section
/-! DEFINITION. The decoder of frames, total on any bytes, and the encoder (R44 to R59,
`30_encoding.md`). Operations have no binary encoding (R44, D10): the decoder gives none and the
encoder answers none for them. The direction of travel says whether bytes are a request or a
response, no bit of a frame does (R59, log 15). -/

namespace Sys2Proof

open Sys2Proof.Machine

/-- Why bytes are no frame. -/
inductive DecodeError where
  /-- neither 2 nor 3 bytes: "No other length exists" (R45) -/
  | badLength
  /-- an outbound frame with R/W = 0 and a data byte other than 0x00: no REGRD (R51, R59) -/
  | readDataNotZero
deriving DecidableEq, Repr

/-- A request of two bytes (R46, R59): `ctrl[0] = 1` is REGWR, `ctrl[0] = 0` with data 0x00 REGRD. -/
def decodeRequest16 (cfg : Config) (c d : Byte) : Except DecodeError Instr :=
  let f := splitCtrl cfg c
  if f.rw then .ok (.regwrF16 f.chip f.reg d)
  else if d = 0x00 then .ok (.regrdF16 f.chip f.reg)
  else .error .readDataNotZero

/-- A request of three bytes (R48, R59). The CRC byte is an operand, not part of match or mask. -/
def decodeRequest24 (cfg : Config) (c d k : Byte) : Except DecodeError Instr :=
  let f := splitCtrl cfg c
  if f.rw then .ok (.regwrF24 f.chip f.reg d k)
  else if d = 0x00 then .ok (.regrdF24 f.chip f.reg k)
  else .error .readDataNotZero

/-- The frame that `bytes` are when they travel in direction `dir`: the length selects the format
(R45, R53), and every response of a right length is one (R49, R50, R56). -/
def decodeFrame (cfg : Config) : Dir → List Byte → Except DecodeError Instr
  | .outbound, [c, d] => decodeRequest16 cfg c d
  | .outbound, [c, d, k] => decodeRequest24 cfg c d k
  | .inbound, [x, d] => .ok (.rspR16 x d)
  | .inbound, [x, d, k] => .ok (.rspR24 x d k)
  | _, _ => .error .badLength

/-- The instruction a command of the host's stream stands for. The callback is one register read
under the conditions of any other caller (R96). -/
def Command.instr (cfg : Config) : Command → Except DecodeError Instr
  | .op i => .ok i
  | .frame dir bytes => decodeFrame cfg dir bytes
  | .callback reg => .ok (.regRead (.direct reg))

/-- The direction a frame travels; operations travel nowhere and count as outbound. -/
def Instr.dir : Instr → Dir
  | .regwrF16 _ _ _ => .outbound
  | .regrdF16 _ _ => .outbound
  | .regwrF24 _ _ _ _ => .outbound
  | .regrdF24 _ _ _ => .outbound
  | .rspR16 _ _ => .inbound
  | .rspR24 _ _ _ => .inbound
  | .crcCompute _ _ _ => .outbound
  | .crcVerify _ _ _ => .outbound
  | .encWrite _ _ _ _ => .outbound
  | .encRead _ _ _ => .outbound
  | .decResp _ _ => .outbound
  | .regRead _ => .outbound
  | .regWrite _ _ => .outbound
  | .regUpdate _ _ _ => .outbound
  | .dbgRead _ => .outbound
  | .dbgWrite _ _ => .outbound
  | .init _ _ => .outbound
  | .teardown => .outbound

/-- The bytes of a frame, index 0 first (R32, R46 to R51); none for an operation (R44). -/
def encode (cfg : Config) : Instr → Option (List Byte)
  | .regwrF16 chip reg data => some [ctrl cfg chip reg true, data]
  | .regrdF16 chip reg => some [ctrl cfg chip reg false, 0x00]
  | .regwrF24 chip reg data crc => some [ctrl cfg chip reg true, data, crc]
  | .regrdF24 chip reg crc => some [ctrl cfg chip reg false, 0x00, crc]
  | .rspR16 rx0 rdata => some [rx0, rdata]
  | .rspR24 rx0 rdata rcrc => some [rx0, rdata, rcrc]
  | .crcCompute _ _ _ => none
  | .crcVerify _ _ _ => none
  | .encWrite _ _ _ _ => none
  | .encRead _ _ _ => none
  | .decResp _ _ => none
  | .regRead _ => none
  | .regWrite _ _ => none
  | .regUpdate _ _ _ => none
  | .dbgRead _ => none
  | .dbgWrite _ _ => none
  | .init _ _ => none
  | .teardown => none

/-- The bytes of a frame of `nbits` bits written as one number: byte 0 in the highest bits (R46,
R48, R59). No frame has another number of bits (R45). -/
def wordBytes (nbits w : Nat) : List Byte :=
  if nbits = 16 then [BitVec.ofNat 8 (w >>> 8), BitVec.ofNat 8 w]
  else if nbits = 24 then [BitVec.ofNat 8 (w >>> 16), BitVec.ofNat 8 (w >>> 8), BitVec.ofNat 8 w]
  else []

/-- The direction in which bytes with no direction given are read: as a request where they are one,
as a response otherwise (log 15). -/
def impliedDir (cfg : Config) (bytes : List Byte) : Dir :=
  match decodeFrame cfg .outbound bytes with
  | .ok _ => .outbound
  | .error _ => .inbound

/-- The instruction the decoder reads from a word of the opcode table. The table's words are drawn
for the reference widths (its note to REGWR.F16), so these are used here (log 25). -/
def decodeTableWord (nbits w : Nat) : Option Instr :=
  let bytes := wordBytes nbits w
  (decodeFrame Config.reference (impliedDir Config.reference bytes) bytes).toOption

end Sys2Proof
end

