-- ==== Sys2Proof/Machine/State.lean ====
section
/-! DEFINITION. The state: one device instance (R13 to R19), the sequencer phase (R20), the result
returned last (R21), what lies behind the transport (R14, R25), and the streams through which the
host, the transport and the strap reach the block. INVENTORY.md lists every field. -/

namespace Sys2Proof.Machine

/-- The sequencer phase (R20). -/
inductive Phase where
  | idle
  | check
  | encode
  | exchange
  | decode
deriving DecidableEq, Repr

/-- The four error kinds (R97). `transportFailure` carries the transport's own value (R99). -/
inductive ErrorKind where
  | invalidArgument
  | transportFailure (e : TransportError)
  | integrityFailure
  /-- host layer only; no operation of the block raises it (R101) -/
  | outOfMemory
deriving DecidableEq, Repr

/-- The values operations return (the "result" entries of the opcode table). -/
inductive Value where
  /-- `Ok` alone -/
  | unit
  | byte (v : Byte)
  | bool (b : Bool)
  | bytes (l : List Byte)
  /-- DEC.RESP's pair, the condition output `integrity_ok` second (R21, R67) -/
  | decoded (data : Byte) (integrityOk : Bool)
deriving DecidableEq, Repr

/-- The result of an operation: `Ok(value)` or `Err(kind)` (R21, R107). -/
inductive Result where
  | ok (v : Value)
  | err (k : ErrorKind)
deriving DecidableEq, Repr

/-- The one way the machine stops. -/
inductive Fault where
  /-- Raised by every operation that makes an exchange, when the transport never answers it: "`stuck`
  is possible" (U18, R128). Safe: the model stops where the block waits for ever. -/
  | exchangeNeverReturned
deriving DecidableEq, Repr

/-- Why an instruction has no meaning in a state. All of them are safe: the model gives up where the
spec defines nothing. -/
inductive Refusal where
  /-- raised by exec for an instruction that has no meaning yet (none is left) -/
  | notModelled (mnemonic : String)
  /-- an operation on an instance, or a request frame, with `LIVE` = 0 (R18, U6) -/
  | notLive
  /-- INIT with `LIVE` = 1 (R94, U6) -/
  | alreadyLive
  /-- an operation on an instance with `BUSY` = 1 (R19, U1) -/
  | instanceBusy
  /-- an encoder's operand, or a frame's field, too wide for its bits (R65, U15, R47) -/
  | fieldTooWide
  /-- a request frame with another chip address than `CHIP_ADDR`, which the block puts in every
  outbound frame and never varies (R29; log 13) -/
  | frameChipNotOfInstance
  /-- a request frame of a length the instance's CRC mode does not have (R45, R53; log 26) -/
  | frameLengthNotOfMode
  /-- raised by step for bytes that are no frame (R45, R51) -/
  | undecodable (e : DecodeError)
deriving DecidableEq, Repr

/-- The whole state. -/
structure State where
  /-- the parameters of R8, which no step changes (R27; log 1) -/
  cfg : Config
  /-- `FB[0..2]` (R13) -/
  fb : FrameBuffer
  /-- `CHIP_ADDR` (R15) -/
  chipAddr : Nat
  /-- `CRC_EN` (R16) -/
  crcEn : Bool
  /-- `CH_COUNT` (R17) -/
  chCount : Nat
  /-- `LIVE` (R18) -/
  live : Bool
  /-- `BUSY` (R19) -/
  busy : Bool
  /-- `PHASE` (R20) -/
  phase : Phase
  /-- the result the last operation returned to its caller, none before the first (R21; log 10) -/
  result : Option Result
  /-- registers of the remote devices, by link address, rising (R14, R28; log 6) -/
  remote : List Host.Cell
  /-- link addresses whose fault latch is set in the device, rising (R25 a, R38; log 7) -/
  latched : List Nat
  /-- commands the host has issued and the block has not taken, oldest first (R20; log 9) -/
  commands : List Command
  /-- transport answers waiting to be given, oldest first (R23; log 3) -/
  script : List Exchange
  /-- `GpioRead()` answers waiting to be given, oldest first (R24; log 4) -/
  straps : List Bool
  /-- the frames handed to the transport so far, oldest first (R78; log 20) -/
  sent : List (List Byte)
  /-- how many `GpioRead()` have been made (R24; log 20) -/
  gpioReads : Nat
  /-- how many times the registers of a destroyed instance have been left unspecified (log 11) -/
  frees : Nat
deriving DecidableEq, Repr

/-- The state before any INIT (R26, R114), for given parameters. `fb`, `chipAddr` and `crcEn` are
unspecified there; the values are the model's (log 12). The device has no reset state either (R26,
R115): of its registers nothing is known (log 6), and that none of its fault latches is set is a
DESIGN CHOICE of the model (log 12). -/
def State.resetWith (cfg : Config) : State where
  cfg := cfg
  fb := { b0 := 0x00, b1 := 0x00, b2 := 0x00 }
  chipAddr := 0
  crcEn := false
  chCount := cfg.chCount
  live := false
  busy := false
  phase := .idle
  result := none
  remote := []
  latched := []
  commands := []
  script := []
  straps := []
  sent := []
  gpioReads := 0
  frees := 0

/-- The machine right after reset, with the reference parameters (log 1). -/
def State.reset : State := State.resetWith Config.reference

end Sys2Proof.Machine
end

