-- ==== Sys2Proof/Machine/Operands.lean ====
section
/-! DEFINITION. Forming operands: the two addressing modes of R75, the register address check of
R74, and the masked-update expression of R73. -/

namespace Sys2Proof.Machine

/-- The register address an operand stands for (R75, R30, R129 d): direct, or base + channel index,
the channel index checked first and the sum a natural number that does not wrap. -/
def operandAddress (chCount : Nat) : RegOperand → Except ErrorKind Nat
  | .direct reg => .ok reg
  | .banked base ch => if chCount ≤ ch then .error .invalidArgument else .ok (base + ch)

/-- `reg` is not above `REG_ADDR_MAX` (R28, R74). -/
def regValid (cfg : Config) (reg : Nat) : Bool := reg ≤ cfg.regAddrMax

/-- `new = (old & ~mask) | (value & mask)`, 8 bits (R73, R129 a). -/
def maskedUpdate (old mask value : Byte) : Byte := (old &&& ~~~mask) ||| (value &&& mask)

end Sys2Proof.Machine
end

