-- ==== Sys2Proof/Machine/Flags.lean ====
section
/-! DEFINITION. The two condition outputs (R21): `integrity_ok` of DEC.RESP, and the status of an
operation. Neither is latched in a register. -/

namespace Sys2Proof.Machine

/-- `integrity_ok` (R67): with CRC on, whether the third byte is the inbound CRC of the first two;
with CRC off, true. -/
def integrityOk (cfg : Config) (f0 f1 f2 : Byte) (crcEnabled : Bool) : Bool :=
  if crcEnabled then crcVerify cfg f0 f1 f2 else true

/-- `DEC_RESP(f, crc_enabled)` (R67, R68): a buffer shorter than the frame is rejected before a byte
of it is read, bytes beyond the frame are ignored (U11). -/
def decResp (cfg : Config) (f : List Byte) (crcEnabled : Bool) : Except ErrorKind (Byte × Bool) :=
  if f.length < flen crcEnabled then .error .invalidArgument
  else .ok (f.getD 1 0, integrityOk cfg (f.getD 0 0) (f.getD 1 0) (f.getD 2 0) crcEnabled)

/-- The numeric code of an error kind (R102): a parameter. -/
def errorCode (cfg : Config) : ErrorKind → Int
  | .invalidArgument => cfg.eInval
  | .transportFailure _ => cfg.eTransport
  | .integrityFailure => cfg.eIntegrity
  | .outOfMemory => cfg.eNomem

end Sys2Proof.Machine
end

