-- ==== Sys2Proof/Machine/Ops.lean ====
section
/-! DEFINITION. The operations every meaning is made of: the remote registers and latches, the frame
buffer, the two collaborators `Exchange` and `GpioRead` (R11, R23, R24), the return of a result and
of an error (R107), one register read and one register write (R71, R72), and the entry checks of an
operation on an instance (R18, R19). -/

namespace Sys2Proof.Machine

/-! ### Remote registers: a list of cells, keys strictly rising; an unlisted address is unknown -/

/-- The canonical form: keys strictly rising, every key a link address. -/
abbrev memoryWf (m : List Host.Cell) : Prop :=
  m.Pairwise (fun x y => x.1 < y.1) ∧ ∀ x ∈ m, x.1 < 128

/-- What register `a` holds, if that is known. -/
def memoryRead : List Host.Cell → Nat → Option Byte
  | [], _ => none
  | (k, v) :: rest, a => if k = a then some v else memoryRead rest a

/-- Register `a` takes the value `v`. -/
def memoryWrite : List Host.Cell → Nat → Byte → List Host.Cell
  | [], a, v => [(a, v)]
  | (k, w) :: rest, a, v =>
      if a < k then (a, v) :: (k, w) :: rest
      else if a = k then (a, v) :: rest
      else (k, w) :: memoryWrite rest a v

/-- The device changes registers by itself, in the order listed. -/
def memoryChange (m : List Host.Cell) : List (LinkAddr × Byte) → List Host.Cell
  | [] => m
  | (a, v) :: rest => memoryChange (memoryWrite m a.toNat v) rest

/-! ### Fault latches: the addresses whose latch is set, strictly rising -/

/-- The canonical form of the set of latches. -/
abbrev latchesWf (l : List Nat) : Prop := l.Pairwise (· < ·) ∧ ∀ a ∈ l, a < 128

/-- The latch of register `a` is set. -/
def latchSet : List Nat → Nat → List Nat
  | [], a => [a]
  | k :: rest, a => if a < k then a :: k :: rest else if a = k then k :: rest else k :: latchSet rest a

/-- The device sets latches by itself. -/
def latchSetAll (l : List Nat) : List LinkAddr → List Nat
  | [] => l
  | a :: rest => latchSetAll (latchSet l a.toNat) rest

/-- The latch of register `a` is cleared (R38). -/
def latchClear (l : List Nat) (a : Nat) : List Nat := l.filter (fun k => k != a)

/-! ### Frame buffer -/

/-- `FB[0 .. n-1]` for `n = FLEN(crcEn)`. -/
def fbFrame (fb : FrameBuffer) (crcEn : Bool) : List Byte :=
  if crcEn then [fb.b0, fb.b1, fb.b2] else [fb.b0, fb.b1]

/-- `FB[0 .. n-1] <- src[0 .. n-1]`, `n = FLEN(crcEn)`: with CRC off `FB[2]` is not written (R13). -/
def fbStore (fb src : FrameBuffer) (crcEn : Bool) : FrameBuffer :=
  { b0 := src.b0, b1 := src.b1, b2 := if crcEn then src.b2 else fb.b2 }

/-- The three bytes a request is built from: control, data, and the outbound CRC (R48). -/
def requestBytes (cfg : Config) (c d : Byte) : FrameBuffer :=
  { b0 := c, b1 := d, b2 := crc8 cfg c d .outbound }

/-! ### The transport -/

/-- What happens at the next exchange: the answer that waits, else a free value; none when the
exchange never returns (R23, U18; log 3, 5). -/
def State.nextDraw (s : State) : Option Draw :=
  match s.script with
  | [] => some (Config.freeDraw s.sent.length)
  | .never :: _ => none
  | .answered d :: _ => some d

/-- Whether the frame with control byte `c` took effect in the device. A read of the instance's own
does when the exchange was made (R71, R100), a write when the device accepted it (R72); a frame that
failed, or whose CRC byte is not the one of R48, may or may not have (R99, U8, U19). DESIGN CHOICE:
for the read this presumes what R117 says must hold before the rules do, that `CRC_EN` is the device's
mode and `CHIP_ADDR` its address; where it does not hold no rule applies (U16; log 28). -/
def frameTaken (own : Bool) (c : Byte) (d : Draw) : Bool :=
  match d.answer with
  | .ok _ => if c.getLsbD 0 then d.taken else own || d.taken
  | .fail _ => d.taken

/-- The remote registers after the frame `c`, `w`: the device's own changes first (R119), then the
write, or what the device attaches to the read (R38, R71, R72). -/
def remoteAfter (m : List Host.Cell) (own : Bool) (c w : Byte) (d : Draw) : List Host.Cell :=
  let m' := memoryChange m d.drift
  if frameTaken own c d then
    if c.getLsbD 0 then memoryWrite m' (linkAddr c).toNat w else memoryChange m' d.readEffect
  else m'

/-- The latches after the frame with control byte `c`: a read that took effect clears the latch of
the register read (R38, R124). DESIGN CHOICE: nothing else clears one. Between two frames of this instance
the device may set latches, but reads by another instance on the transport, which would clear some, are
not modelled: R113 says nothing about interleaving their exchanges (log 7, 17). -/
def latchedAfter (l : List Nat) (own : Bool) (c : Byte) (d : Draw) : List Nat :=
  let l' := latchSetAll l d.latch
  if frameTaken own c d && !c.getLsbD 0 then latchClear l' (linkAddr c).toNat else l'

/-- `FB` after the exchange: the received bytes in place of the sent ones (D8), or, when the
exchange failed, the frame that was sent (R107). -/
def fbAfter (fb : FrameBuffer) (crcEn : Bool) : Answer → FrameBuffer
  | .ok rx => fbStore fb rx crcEn
  | .fail _ => fb

/-- `Exchange(FB[0 .. n-1])`, with the phase of R20 (R11, R23, R71). `own`: the frame is one the
instance's operations build, its CRC byte included. None: the exchange never returns (U18). -/
def State.exchange (s : State) (own : Bool) : Option (State × Answer) :=
  match s.nextDraw with
  | none => none
  | some d =>
    some
      ({ s with
          phase := .exchange
          fb := fbAfter s.fb s.crcEn d.answer
          remote := remoteAfter s.remote own s.fb.b0 s.fb.b1 d
          latched := latchedAfter s.latched own s.fb.b0 d
          script := s.script.tail
          sent := s.sent ++ [fbFrame s.fb s.crcEn] },
        d.answer)

/-- The answer of the next `GpioRead()` (R24; log 4). -/
def State.nextStrap (s : State) : Bool :=
  match s.straps with
  | [] => Config.freeStrap s.gpioReads
  | b :: _ => b

/-- `GpioRead()` has been made once more. -/
def State.afterGpioRead (s : State) : State :=
  { s with straps := s.straps.tail, gpioReads := s.gpioReads + 1 }

/-! ### Returning to the caller -/

/-- The end of an operation on an instance: `PHASE <- IDLE`, `BUSY <- 0`, and the result goes to the
caller (R19, R20, R107). -/
def State.conclude (s : State) (r : Result) : State :=
  { s with phase := .idle, busy := false, result := some r }

/-- `raise kind`: taking an error. The operation stops and `Err(kind)` goes to the caller. Nothing is
saved, and there is no return from it (R107, R109). -/
def State.raise (s : State) (k : ErrorKind) : State := s.conclude (.err k)

/-- `return Ok(v)` (R11). -/
def State.returnOk (s : State) (v : Value) : State := s.conclude (.ok v)

/-- What a body came to, as a result. -/
def resultOf : Except ErrorKind Value → Result
  | .ok v => .ok v
  | .error k => .err k

/-- The end of an operation on an instance, by what its body came to: `raise` or `return`. -/
def State.complete (s : State) (r : Except ErrorKind Value) : State := s.conclude (resultOf r)

/-- The result of a pure function, which leaves every piece of the instance's state alone (R44,
R69). -/
def State.answerPure (s : State) (r : Result) : State := { s with result := some r }

/-! ### One register read and one register write -/

/-- What the sequencer makes of the answer to a write frame: it is never examined (R72, R126). -/
def writeOutcome : Answer → Except ErrorKind Unit
  | .ok _ => .ok ()
  | .fail e => .error (.transportFailure e)

/-- What the sequencer makes of the answer to a read frame, `FB` already holding the response (R71):
the data byte, or `IntegrityFailure` and no data (R100, D21). -/
def readOutcome (cfg : Config) (fb : FrameBuffer) (crcEn : Bool) : Answer → Except ErrorKind Byte
  | .ok _ =>
      if integrityOk cfg fb.b0 fb.b1 fb.b2 crcEn then .ok fb.b1 else .error .integrityFailure
  | .fail e => .error (.transportFailure e)

/-- ENCODE: the frame goes to `FB[0 .. n-1]` (R71, R72). -/
def State.load (s : State) (src : FrameBuffer) : State :=
  { s with phase := .encode, fb := fbStore s.fb src s.crcEn }

/-- A write after its exchange. -/
def writeEnd (r : State × Answer) : State × Except ErrorKind Unit := (r.1, writeOutcome r.2)

/-- A read after its exchange: DECODE. -/
def readEnd (r : State × Answer) : State × Except ErrorKind Byte :=
  ({ r.1 with phase := .decode }, readOutcome r.1.cfg r.1.fb r.1.crcEn r.2)

/-- ENCODE and EXCHANGE of a write: `src` goes to `FB` and out (R72). -/
def State.sendWrite (s : State) (src : FrameBuffer) (own : Bool) :
    Option (State × Except ErrorKind Unit) :=
  ((s.load src).exchange own).map writeEnd

/-- ENCODE, EXCHANGE and DECODE of a read (R71). -/
def State.sendRead (s : State) (src : FrameBuffer) (own : Bool) :
    Option (State × Except ErrorKind Byte) :=
  ((s.load src).exchange own).map readEnd

/-- `REG_READ` from its CHECK on (R71). -/
def State.readRegister (s : State) (reg : Nat) : Option (State × Except ErrorKind Byte) :=
  if regValid s.cfg reg then
    s.sendRead (requestBytes s.cfg (ctrl s.cfg s.chipAddr reg false) 0x00) true
  else some (s, .error .invalidArgument)

/-- `REG_WRITE` from its CHECK on (R72). -/
def State.writeRegister (s : State) (reg : Nat) (data : Byte) :
    Option (State × Except ErrorKind Unit) :=
  if regValid s.cfg reg then
    s.sendWrite (requestBytes s.cfg (ctrl s.cfg s.chipAddr reg true) data) true
  else some (s, .error .invalidArgument)

/-- `REG_UPDATE` (R73): a read, and unless it fails a write of the masked combination. -/
def State.updateRegister (s : State) (reg : Nat) (mask value : Byte) :
    Option (State × Except ErrorKind Unit) :=
  match s.readRegister reg with
  | none => none
  | some (s', .error k) => some (s', .error k)
  | some (s', .ok old) => s'.writeRegister reg (maskedUpdate old mask value)

/-- INIT's handshake: one read per entry, in order, the data discarded; the first error ends it
(R87, R94). -/
def State.handshake (s : State) : List Nat → Option (State × Except ErrorKind Unit)
  | [] => some (s, .ok ())
  | a :: rest =>
    match s.readRegister a with
    | none => none
    | some (s', .error k) => some (s', .error k)
    | some (s', .ok _) => s'.handshake rest

/-! ### The frame of every operation on an instance -/

/-- The outcomes of a step. -/
abbrev StepOutcome := Host.Outcome State Fault Refusal

/-- What a body came to, as a step: stuck when an exchange never returned (U18). -/
def finish : Option (State × Except ErrorKind Value) → StepOutcome
  | none => .fault .exchangeNeverReturned
  | some (s, r) => .next (s.complete r)

/-- An operation on an instance: it requires `LIVE` = 1 and `BUSY` = 0, sets `BUSY` on entry, and
clears it on every exit (R18, R19). -/
def State.onInstance (s : State) (body : State → Option (State × Except ErrorKind Value)) :
    StepOutcome :=
  if !s.live then .refused .notLive
  else if s.busy then .refused .instanceBusy
  else finish (body { s with busy := true, phase := .check })

/-- A body that works on the register an operand stands for (R75): an operand that stands for none
is an error before anything else is done. -/
def State.atOperand {α : Type} (s : State) (op : RegOperand)
    (body : Nat → Option (State × Except ErrorKind α)) : Option (State × Except ErrorKind α) :=
  match operandAddress s.chCount op with
  | .error k => some (s, .error k)
  | .ok reg => body reg

/-- The result of a read as an operation's value. -/
def asByte (r : State × Except ErrorKind Byte) : State × Except ErrorKind Value := (r.1, r.2.map .byte)

/-- The result of a write as an operation's value. -/
def asUnit (r : State × Except ErrorKind Unit) : State × Except ErrorKind Value :=
  (r.1, r.2.map fun _ => .unit)

/-- The instance is gone: `LIVE <- 0`, and the registers that R26 leaves unspecified before an INIT
hold free values again (R95; log 11). `FB` is left to the caller. -/
def State.dissolve (s : State) : State :=
  { s with
      live := false
      chipAddr := (Config.freeInstance s.frees).chipAddr
      crcEn := (Config.freeInstance s.frees).crcEn
      frees := s.frees + 1 }

/-! ### Taking the next command -/

/-- The next command of the host's stream, and the state without it (R20). -/
def State.fetch (s : State) : Option (Command × State) :=
  match s.commands with
  | [] => none
  | c :: rest => some (c, { s with commands := rest })

/-- The instance from which a request frame of chip `chip` and length `FLEN(crcEn)` goes out: live,
idle, with that address and that mode (R15, R16, R53). What INIT would have set up (log 9). -/
def State.asSender (s : State) (chip : Nat) (crcEn : Bool) : State :=
  { s with live := true, busy := false, chipAddr := chip, crcEn := crcEn }

/-- The state in which a request frame of instruction `i` can be on the link; unchanged for what
needs no instance. -/
def State.readyFor (s : State) : Instr → State
  | .regwrF16 chip _ _ => s.asSender chip false
  | .regrdF16 chip _ => s.asSender chip false
  | .regwrF24 chip _ _ _ => s.asSender chip true
  | .regrdF24 chip _ _ => s.asSender chip true
  | .rspR16 _ _ => s
  | .rspR24 _ _ _ => s
  | .crcCompute _ _ _ => s
  | .crcVerify _ _ _ => s
  | .encWrite _ _ _ _ => s
  | .encRead _ _ _ => s
  | .decResp _ _ => s
  | .regRead _ => s
  | .regWrite _ _ => s
  | .regUpdate _ _ _ => s
  | .dbgRead _ => s
  | .dbgWrite _ _ => s
  | .init _ _ => s
  | .teardown => s

/-- `s` with the frame of `nbits` bits written `w` as the next command, in the state in which it can
be on the link. -/
def State.placeFrame (s : State) (nbits w : Nat) : State :=
  let bytes := wordBytes nbits w
  let c := Command.frame (impliedDir s.cfg bytes) bytes
  let s' := { s with commands := c :: s.commands }
  match c.instr s.cfg with
  | .ok i => s'.readyFor i
  | .error _ => s'

end Sys2Proof.Machine
end

