-- ==== Sys2Proof/Machine/CrcEngine.lean ====
section
/-! DEFINITION. The CRC engine's operations (`40_crc_engine.md`). No state is read but the parameters,
nothing fails (R60, R63). -/

namespace Sys2Proof.Machine

/-- CRC.COMPUTE b0, b1, dir (R60). -/
def execCrcCompute (b0 b1 : Byte) (dir : Dir) (s : State) : StepOutcome :=
  .next (s.answerPure (.ok (.byte (crc8 s.cfg b0 b1 dir))))

/-- CRC.VERIFY b0, b1, expected (R63): a mismatch is the result false, no error. -/
def execCrcVerify (b0 b1 expected : Byte) (s : State) : StepOutcome :=
  .next (s.answerPure (.ok (.bool (crcVerify s.cfg b0 b1 expected))))

end Sys2Proof.Machine
end

