-- ==== Sys2Proof/Machine/FrameCodec.lean ====
section
/-! DEFINITION. The frame codec's operations and the response frames (`41_frame_codec.md`). Pure
functions of their operands (R69). -/

namespace Sys2Proof.Machine

/-- The answer of DEC.RESP: the pair, or the rejection of a short buffer (R67, R68). -/
def decodedResult : Except ErrorKind (Byte × Bool) → Result
  | .ok (data, ok) => .ok (.decoded data ok)
  | .error k => .err k

/-- ENC.WRITE chip, reg, data, crc_enabled (R65). Operands that do not fit their fields lie outside
the function's domain: refused, not truncated (U15, D27). -/
def execEncWrite (chip reg : Nat) (data : Byte) (crcEnabled : Bool) (s : State) : StepOutcome :=
  if chipFits s.cfg chip && regFits s.cfg reg then
    .next (s.answerPure (.ok (.bytes (encWrite s.cfg chip reg data crcEnabled))))
  else .refused .fieldTooWide

/-- ENC.READ chip, reg, crc_enabled (R66). -/
def execEncRead (chip reg : Nat) (crcEnabled : Bool) (s : State) : StepOutcome :=
  if chipFits s.cfg chip && regFits s.cfg reg then
    .next (s.answerPure (.ok (.bytes (encRead s.cfg chip reg crcEnabled))))
  else .refused .fieldTooWide

/-- DEC.RESP [bytes], crc_enabled (R67, R68). -/
def execDecResp (f : List Byte) (crcEnabled : Bool) (s : State) : StepOutcome :=
  .next (s.answerPure (decodedResult (decResp s.cfg f crcEnabled)))

/-- RSP.R16, a response received with CRC off: it is parsed as DEC.RESP parses it (R49; log 15). -/
def execRspR16 (rx0 rdata : Byte) (s : State) : StepOutcome :=
  .next (s.answerPure (decodedResult (decResp s.cfg [rx0, rdata] false)))

/-- RSP.R24, a response received with CRC on (R50; log 15). -/
def execRspR24 (rx0 rdata rcrc : Byte) (s : State) : StepOutcome :=
  .next (s.answerPure (decodedResult (decResp s.cfg [rx0, rdata, rcrc] true)))

end Sys2Proof.Machine
end

