-- ==== Sys2Proof/Machine/Lifecycle.lean ====
section
/-! DEFINITION. Creating and destroying the instance (`44_lifecycle.md`). -/

namespace Sys2Proof.Machine

/-- The CRC mode INIT fixes (R16, R94): the strap, 1 meaning on (R24), or the operand. -/
def State.initMode (s : State) (crcEn : Bool) : Bool :=
  match s.cfg.crcSrc with
  | .strap => s.nextStrap
  | .config => crcEn

/-- The strap is read exactly once when it is the source, otherwise not (R94). -/
def State.afterInitMode (s : State) : State :=
  match s.cfg.crcSrc with
  | .strap => s.afterGpioRead
  | .config => s

/-- The instance as INIT creates it, before its handshake reads: `BUSY` is 1 until INIT returns
(R94, C11). -/
def State.create (s : State) (chipAddr : Nat) (crcEn : Bool) : State :=
  { s.afterInitMode with
      chipAddr := chipAddr
      crcEn := s.initMode crcEn
      live := true
      busy := true
      phase := .idle }

/-- INIT's end: `Ok`, or the handshake's error and no instance (R94, R26; log 11, 18). -/
def finishInit : Option (State × Except ErrorKind Unit) → StepOutcome
  | none => .fault .exchangeNeverReturned
  | some (s, .ok _) => .next (s.returnOk .unit)
  | some (s, .error k) => .next (s.dissolve.raise k)

/-- INIT chip_addr, crc_en (R94). -/
def execInit (chipAddr : Nat) (crcEn : Bool) (s : State) : StepOutcome :=
  if s.live then .refused .alreadyLive
  else if s.busy then .refused .instanceBusy
  else if !chipFits s.cfg chipAddr then .next (s.raise .invalidArgument)
  else if !s.cfg.faultRegs.all (regValid s.cfg) then .next (s.raise .invalidArgument)
  else finishInit ((s.create chipAddr crcEn).handshake s.cfg.faultRegs)

/-- TEARDOWN (R95): no frame, always `Ok` (D28); the registers are unspecified afterwards, `FB` with
them (R26; log 11). -/
def execTeardown (s : State) : StepOutcome :=
  s.onInstance fun s =>
    some ({ s.dissolve with fb := (Config.freeInstance s.frees).fb }, .ok .unit)

end Sys2Proof.Machine
end

