-- ==== Sys2Proof/Machine/LinkFrames.lean ====
section
/-! DEFINITION. The request frames (`30_encoding.md`): a frame given by its fields goes through the
frame buffer and is exchanged once, as the ENCODE, EXCHANGE and DECODE phases of R71 and R72 do with
the frame an operation builds (R45 to R51, R78; log 13, 14, 26). It is a frame of the instance, so it
carries the instance's chip address (R29). -/

namespace Sys2Proof.Machine

/-- The frame `src` is one that the instance's own operations build: with CRC on its CRC byte is the
one of R48. -/
def State.ownFrame (s : State) (src : FrameBuffer) : Bool :=
  !s.crcEn || src.b2 == crc8 s.cfg src.b0 src.b1 .outbound

/-- A request frame of CRC mode `mode`, with the entry checks of an operation on an instance; its
fields fit (R47), its chip address is the instance's, which no outbound frame varies (R29), the
instance is in that mode (R45, R53), and its register address is one the block puts on the link (R54,
R74). -/
def State.onFrame (s : State) (mode : Bool) (chip reg : Nat)
    (body : State → Option (State × Except ErrorKind Value)) : StepOutcome :=
  let free := s.live && !s.busy
  if free && !(chipFits s.cfg chip && regFits s.cfg reg) then .refused .fieldTooWide
  else if free && chip != s.chipAddr then .refused .frameChipNotOfInstance
  else if free && s.crcEn != mode then .refused .frameLengthNotOfMode
  else s.onInstance fun s =>
    if regValid s.cfg reg then body s else some (s, .error .invalidArgument)

/-- A write frame. -/
def State.onWriteFrame (s : State) (mode : Bool) (chip reg : Nat) (data crc : Byte) : StepOutcome :=
  s.onFrame mode chip reg fun s =>
    let src : FrameBuffer := { b0 := ctrl s.cfg chip reg true, b1 := data, b2 := crc }
    (s.sendWrite src (s.ownFrame src)).map asUnit

/-- A read frame: its data byte is 0x00 (R51). -/
def State.onReadFrame (s : State) (mode : Bool) (chip reg : Nat) (crc : Byte) : StepOutcome :=
  s.onFrame mode chip reg fun s =>
    let src : FrameBuffer := { b0 := ctrl s.cfg chip reg false, b1 := 0x00, b2 := crc }
    (s.sendRead src (s.ownFrame src)).map asByte

/-- REGWR.F16 (R46): with CRC off the third byte is not used. -/
def execRegwrF16 (chip reg : Nat) (data : Byte) (s : State) : StepOutcome :=
  s.onWriteFrame false chip reg data 0x00

/-- REGRD.F16 (R46, R51). -/
def execRegrdF16 (chip reg : Nat) (s : State) : StepOutcome := s.onReadFrame false chip reg 0x00

/-- REGWR.F24 (R48). -/
def execRegwrF24 (chip reg : Nat) (data crc : Byte) (s : State) : StepOutcome :=
  s.onWriteFrame true chip reg data crc

/-- REGRD.F24 (R48, R51). -/
def execRegrdF24 (chip reg : Nat) (crc : Byte) (s : State) : StepOutcome :=
  s.onReadFrame true chip reg crc

end Sys2Proof.Machine
end

