-- ==== Sys2Proof/Machine/RegisterAccess.lean ====
section
/-! DEFINITION. The register access operations (`42_register_access.md`). -/

namespace Sys2Proof.Machine

/-- REG.READ reg (R71). -/
def execRegRead (reg : RegOperand) (s : State) : StepOutcome :=
  s.onInstance fun s => (s.atOperand reg s.readRegister).map asByte

/-- REG.WRITE reg, data (R72). -/
def execRegWrite (reg : RegOperand) (data : Byte) (s : State) : StepOutcome :=
  s.onInstance fun s => (s.atOperand reg fun a => s.writeRegister a data).map asUnit

/-- REG.UPDATE reg, mask, value (R73). -/
def execRegUpdate (reg : RegOperand) (mask value : Byte) (s : State) : StepOutcome :=
  s.onInstance fun s => (s.atOperand reg fun a => s.updateRegister a mask value).map asUnit

/-- DBG.READ addr: as REG.READ, range check included (R76). -/
def execDbgRead (addr : Nat) (s : State) : StepOutcome :=
  s.onInstance fun s => (s.readRegister addr).map asByte

/-- DBG.WRITE addr, val: as REG.WRITE (R77). -/
def execDbgWrite (addr : Nat) (val : Byte) (s : State) : StepOutcome :=
  s.onInstance fun s => (s.writeRegister addr val).map asUnit

end Sys2Proof.Machine
end

