-- ==== Sys2Proof/Machine/Dispatch.lean ====
section
/-! DEFINITION. One arm per instruction. -/

namespace Sys2Proof.Machine

def exec (i : Instr) (s : State) : Host.Outcome State Fault Refusal :=
  match i with
  -- frames on the link (30_encoding.md)
  | .regwrF16 chip reg data => Sys2Proof.Machine.execRegwrF16 chip reg data s
  | .regrdF16 chip reg => Sys2Proof.Machine.execRegrdF16 chip reg s
  | .regwrF24 chip reg data crc => Sys2Proof.Machine.execRegwrF24 chip reg data crc s
  | .regrdF24 chip reg crc => Sys2Proof.Machine.execRegrdF24 chip reg crc s
  | .rspR16 rx0 rdata => Sys2Proof.Machine.execRspR16 rx0 rdata s
  | .rspR24 rx0 rdata rcrc => Sys2Proof.Machine.execRspR24 rx0 rdata rcrc s
  -- CRC engine (40_crc_engine.md)
  | .crcCompute b0 b1 dir => Sys2Proof.Machine.execCrcCompute b0 b1 dir s
  | .crcVerify b0 b1 expected => Sys2Proof.Machine.execCrcVerify b0 b1 expected s
  -- frame codec (41_frame_codec.md)
  | .encWrite chip reg data crcEnabled => Sys2Proof.Machine.execEncWrite chip reg data crcEnabled s
  | .encRead chip reg crcEnabled => Sys2Proof.Machine.execEncRead chip reg crcEnabled s
  | .decResp f crcEnabled => Sys2Proof.Machine.execDecResp f crcEnabled s
  -- register access (42_register_access.md)
  | .regRead reg => Sys2Proof.Machine.execRegRead reg s
  | .regWrite reg data => Sys2Proof.Machine.execRegWrite reg data s
  | .regUpdate reg mask value => Sys2Proof.Machine.execRegUpdate reg mask value s
  | .dbgRead addr => Sys2Proof.Machine.execDbgRead addr s
  | .dbgWrite addr val => Sys2Proof.Machine.execDbgWrite addr val s
  -- lifecycle (44_lifecycle.md)
  | .init chipAddr crcEn => Sys2Proof.Machine.execInit chipAddr crcEn s
  | .teardown => Sys2Proof.Machine.execTeardown s

end Sys2Proof.Machine
end

