-- ==== Sys2Proof/Machine/Step.lean ====
section
/-! DEFINITION. One step: the next command of the host's stream runs to completion (R20, R40). -/

namespace Sys2Proof.Machine

/-- One step. With no command waiting the block idles: nothing changes (R20; log 9). -/
def step (s : State) : Host.Outcome State Fault Refusal :=
  match s.fetch with
  | none => .next s
  | some (c, s') =>
    match c.instr s.cfg with
    | .ok i => exec i s'
    | .error e => .refused (.undecodable e)

/-- `s` with a frame of the opcode table as its next command, and, for a request, in the state in
which that frame can be on the link (log 9). -/
def State.withFetchWord (s : State) (nbits w : Nat) : State := s.placeFrame nbits w

end Sys2Proof.Machine
end

