-- ==== Sys2Proof/Machine/Policy.lean ====
section
/-! DEFINITION. CONTEXT, outside the block (R5): the host layer of `43_client_policy.md` as sequences
of the block's operations, its attributes and its channel set-up. No constructor of `Instr` and no step
uses this file (log 22, 29, 30). The target chip's registers, masks, offsets and codes are parameters, all
OPEN (R80). -/

namespace Sys2Proof.Machine

/-- The named parameters of R80, under its names, each by channel. DESIGN CHOICE: any register numbers
are admitted, since R80 constrains none; those of a map a chip has are `HostMap.Valid` (log 30). -/
structure HostMap where
  funcReg : Nat → Nat
  funcMask : Nat → Byte
  funcOff : Nat → Nat
  /-- `FUNC_HIZ`: the code or codes of the high-impedance function -/
  funcHiz : List Byte
  clampReg : Nat → Nat
  clampMask : Nat → Byte
  clampPp : Byte
  clReg : Nat → Nat
  clMask : Nat → Byte
  clOff : Nat → Nat
  /-- the four current-limit codes (R82) -/
  clCodes : List Byte
  cntEnReg : Nat → Nat
  cntEnMask : Nat → Byte
  cntStop : Byte
  cntLoReg : Nat → Nat
  cntHiReg : Nat → Nat
  fbpReg : Nat → Nat
  fbpMask : Nat → Byte
  fdlyReg : Nat → Nat
  fdlyMask : Nat → Byte
  fdlyOff : Nat → Nat

/-- The registers of the map are ones the device has, for every channel: the condition under which no
operation of a sequence is rejected for its address, so that `InvalidArgument` is "never surfaced partway
through a multi-step sequence" (R98). The spec states no such condition (log 30). -/
abbrev HostMap.Valid (m : HostMap) (cfg : Config) (chCount : Nat) : Prop :=
  ∀ ch, ch < chCount →
    m.funcReg ch ≤ cfg.regAddrMax ∧ m.clampReg ch ≤ cfg.regAddrMax ∧ m.clReg ch ≤ cfg.regAddrMax ∧
      m.cntEnReg ch ≤ cfg.regAddrMax ∧ m.cntLoReg ch ≤ cfg.regAddrMax ∧
      m.cntHiReg ch ≤ cfg.regAddrMax ∧ m.fbpReg ch ≤ cfg.regAddrMax ∧ m.fdlyReg ch ≤ cfg.regAddrMax

/-- Field insert `(code << off) & M` (R80, R129 e). -/
def fieldInsert (code : Byte) (off : Nat) (mask : Byte) : Byte := (code <<< off) &&& mask

/-- Field extract `(data & M) >> off` (R80, R129 e). -/
def fieldExtract (data mask : Byte) (off : Nat) : Byte := (data &&& mask) >>> off

/-- A host operation on channel `ch`: the channel index is checked first, with no exchange (R75,
R80). -/
def onChannel (chCount ch : Nat) (seq : Except ErrorKind (List Instr)) :
    Except ErrorKind (List Instr) :=
  if chCount ≤ ch then .error .invalidArgument else seq

/-- A masked update of a register of the chip. -/
def hostUpdate (reg : Nat) (mask value : Byte) : Instr := .regUpdate (.direct reg) mask value

/-- Channel function select (R81): for a high-impedance function the clamp goes to push-pull first. -/
def setFunction (m : HostMap) (chCount ch : Nat) (f : Byte) : Except ErrorKind (List Instr) :=
  let select := hostUpdate (m.funcReg ch) (m.funcMask ch) (fieldInsert f (m.funcOff ch) (m.funcMask ch))
  onChannel chCount ch <| .ok <|
    if m.funcHiz.contains f then [hostUpdate (m.clampReg ch) (m.clampMask ch) m.clampPp, select]
    else [select]

/-- Current-limit select (R82). -/
def setCurrentLimit (m : HostMap) (chCount ch : Nat) (k : Byte) : Except ErrorKind (List Instr) :=
  onChannel chCount ch <|
    if m.clCodes.contains k then
      .ok [hostUpdate (m.clReg ch) (m.clMask ch) (fieldInsert k (m.clOff ch) (m.clMask ch))]
    else .error .invalidArgument

/-- Current-limit query (R82): the read, and what the host computes from its data. -/
def getCurrentLimit (m : HostMap) (chCount ch : Nat) : Except ErrorKind (List Instr) :=
  onChannel chCount ch (.ok [.regRead (.direct (m.clReg ch))])

/-- The current-limit code in the data read. -/
def currentLimitOf (m : HostMap) (ch : Nat) (data : Byte) : Byte :=
  fieldExtract data (m.clMask ch) (m.clOff ch)

/-- Counter configuration (R83): stop, low byte, high byte, resume. -/
def setCounter (m : HostMap) (chCount ch : Nat) (v : BitVec 16) : Except ErrorKind (List Instr) :=
  onChannel chCount ch <| .ok
    [ hostUpdate (m.cntEnReg ch) (m.cntEnMask ch) m.cntStop,
      .regWrite (.direct (m.cntLoReg ch)) (v.extractLsb' 0 8),
      .regWrite (.direct (m.cntHiReg ch)) (v.extractLsb' 8 8),
      hostUpdate (m.cntEnReg ch) (m.cntEnMask ch) (m.cntStop ^^^ m.cntEnMask ch) ]

/-- Filter bypass (R84). -/
def setFilterBypass (m : HostMap) (chCount ch : Nat) (b : Bool) : Except ErrorKind (List Instr) :=
  onChannel chCount ch <| .ok
    [hostUpdate (m.fbpReg ch) (m.fbpMask ch) (if b then m.fbpMask ch else 0x00)]

/-- `DELAY_TABLE` (R88). -/
def delayTable : List Nat := [50, 100, 400, 800, 1800, 3200, 12800, 20000]

/-- Linear search for an exact match, from index `i` upward (R85). -/
def searchFrom (v i : Nat) : List Nat → Option Nat
  | [] => none
  | x :: rest => if x = v then some i else searchFrom v (i + 1) rest

/-- Filter delay select (R85): the index is written; no match is an error with no exchange. -/
def setDelay (m : HostMap) (chCount ch v : Nat) : Except ErrorKind (List Instr) :=
  onChannel chCount ch <|
    match searchFrom v 0 delayTable with
    | none => .error .invalidArgument
    | some i =>
        .ok [hostUpdate (m.fdlyReg ch) (m.fdlyMask ch)
          (fieldInsert (BitVec.ofNat 8 i) (m.fdlyOff ch) (m.fdlyMask ch))]

/-- Filter delay query (R86). -/
def getDelay (m : HostMap) (chCount ch : Nat) : Except ErrorKind (List Instr) :=
  onChannel chCount ch (.ok [.regRead (.direct (m.fdlyReg ch))])

/-- The delay in the data read; none for an index outside the table, which R86 does not describe. -/
def delayOf (m : HostMap) (ch : Nat) (data : Byte) : Option Nat :=
  delayTable[(fieldExtract data (m.fdlyMask ch) (m.fdlyOff ch)).toNat]?

/-- The operation that ended in `t` returned an error. -/
def endedInError (t : State) : Bool :=
  match t.result with
  | some (.err _) => true
  | _ => false

/-- A host sequence: its operations in order, ended by the first error, which is the sequence's
error; nothing is rolled back (R106, R108, R123). DESIGN CHOICE: the addresses of a sequence are not
checked before its first exchange, so over a map that is not `HostMap.Valid` a later operation may return
`InvalidArgument` after exchanges of earlier ones, which R98 excludes (log 30). DESIGN CHOICE too: no fault
callback runs between two operations of the sequence, as R120 says one may; one does where the same
operations stand in `State.commands` with a callback among them (log 27). -/
def runSequence : List Instr → State → StepOutcome
  | [], s => .next s
  | i :: rest, s =>
    match exec i s with
    | .next t => if endedInError t then .next t else runSequence rest t
    | .fault r => .fault r
    | .refused r => .refused r

/-! ### Attributes (R89 to R91): a catalogue of named handles over registers and fields -/

/-- What a show works on (R90): an attribute over a register has mask 0xFF and offset 0. -/
inductive ShowSource where
  /-- a register or a field of one -/
  | field (reg : Nat) (mask : Byte) (off : Nat)
  /-- a field that holds an index of a quantization table and stands for the value there (R86, R88) -/
  | indexed (reg : Nat) (mask : Byte) (off : Nat) (table : List Nat)
  /-- the available values: the whole table, which the host holds -/
  | available (table : List Nat)
deriving DecidableEq, Repr

/-- The operation of the policy layer a store is forwarded to (R91). -/
inductive StoreTarget where
  | function
  | currentLimit
  | counter
  | filterBypass
  | filterDelay
deriving DecidableEq, Repr

/-- One entry of the catalogue, `name, show?, store?, shared_scope` (R89). The names are not given
(N21) and neither are the registers: all of it is an argument. -/
structure Attribute where
  name : String
  /-- `show?`, by channel; none for a write-only attribute -/
  shows : Option (Nat → ShowSource)
  /-- `store?`; none for a read-only attribute -/
  stores : Option StoreTarget
  shared : Bool

/-- "an attribute with no read function is write-only and vice versa" (R89): it has one of the two. -/
def Attribute.wellFormed (a : Attribute) : Bool := a.shows.isSome || a.stores.isSome

/-- The channel an access is about: a shared attribute ignores the index (R89), for any other the index
is checked first, with no exchange (R75, R80). DESIGN CHOICE: a shared attribute acts on the registers of
channel 0, since R89 does not say which ones it acts on (log 29). -/
def attributeChannel (chCount : Nat) (a : Attribute) (ch : Nat) : Except ErrorKind Nat :=
  if a.shared then .ok 0 else if chCount ≤ ch then .error .invalidArgument else .ok ch

/-- A list of values as a show renders it: one space after every element, the last included (R90). -/
def renderList (values : List Nat) : String := String.join (values.map fun v => toString v ++ " ")

/-- The available-delay attribute (R90, S7). -/
def showDelays : String := renderList delayTable

/-- The value of a quantization table at an index; a free value where it has none (log 29). -/
def tableValue (table : List Nat) (i : Nat) : Nat := (table[i]?).getD (Config.freeTableValue i)

/-- What a call of the host layer ends in: the state the block is left in, and what it returns. -/
abbrev HostOutcome (α : Type) : Type := Host.Outcome (State × Option (Except ErrorKind α)) Fault Refusal

/-- The byte or the error that a read returned; none if the last operation was no read. -/
def returnedByte (t : State) : Option (Except ErrorKind Byte) :=
  match t.result with
  | some (.ok (.byte v)) => some (.ok v)
  | some (.err k) => some (.error k)
  | some (.ok .unit) => none
  | some (.ok (.bool _)) => none
  | some (.ok (.bytes _)) => none
  | some (.ok (.decoded _ _)) => none
  | none => none

/-- One REG.READ by the host, its byte rendered, its error returned as it is (R90). -/
def readAndRender (reg : Nat) (render : Byte → String) (s : State) : HostOutcome String :=
  match exec (.regRead (.direct reg)) s with
  | .next t => .next (t, (returnedByte t).map (·.map render))
  | .fault r => .fault r
  | .refused r => .refused r

/-- The show of one source (R90): a decimal integer, or the list, for which no exchange is made. -/
def showSource : ShowSource → State → HostOutcome String
  | .field reg mask off, s =>
      readAndRender reg (fun data => toString (fieldExtract data mask off).toNat) s
  | .indexed reg mask off table, s =>
      readAndRender reg (fun data => toString (tableValue table (fieldExtract data mask off).toNat)) s
  | .available table, s => .next (s, some (.ok (renderList table)))

/-- `show(channel) -> formatted_string` (R90); none for an attribute that has no read function. -/
def showAttribute (a : Attribute) (ch : Nat) (s : State) : Option (HostOutcome String) :=
  a.shows.map fun source =>
    match attributeChannel s.chCount a ch with
    | .error k => .next (s, some (.error k))
    | .ok c => showSource (source c) s

/-- A parsed integer as a value below `bound`; any other is out of range (R91). -/
def storedValue (v bound : Int) : Except ErrorKind Nat :=
  if 0 ≤ v ∧ v < bound then .ok v.toNat else .error .invalidArgument

/-- A code of `off` and `mask`'s field: one that the field insert keeps whole. -/
def storedCode (v : Int) (off : Nat) (mask : Byte) : Except ErrorKind Byte :=
  (storedValue v 0x100).bind fun n =>
    let code := BitVec.ofNat 8 n
    if fieldExtract (fieldInsert code off mask) mask off = code then .ok code
    else .error .invalidArgument

/-- A store forwarded to the policy layer (R91). What does not fit its operand is out of range; the
widths are those of the operands, since R91 gives none. DESIGN CHOICE: for the bypass 1 sets the bit and
0 clears it; R84 does not give which bit value means bypassed, and R91 gives no mapping (log 29). -/
def forwardStore (m : HostMap) (chCount ch : Nat) (v : Int) : StoreTarget → Except ErrorKind (List Instr)
  | .function => (storedCode v (m.funcOff ch) (m.funcMask ch)).bind (setFunction m chCount ch)
  | .currentLimit => (storedCode v (m.clOff ch) (m.clMask ch)).bind (setCurrentLimit m chCount ch)
  | .counter => (storedValue v 0x10000).bind fun n => setCounter m chCount ch (BitVec.ofNat 16 n)
  | .filterBypass => (storedValue v 2).bind fun n => setFilterBypass m chCount ch (n == 1)
  | .filterDelay => if v < 0 then .error .invalidArgument else setDelay m chCount ch v.toNat

/-- What a store makes of the parsed string: one that is no integer is rejected (R91). -/
def storeParsed (m : HostMap) (chCount ch : Nat) (target : StoreTarget) :
    Option Int → Except ErrorKind (List Instr)
  | none => .error .invalidArgument
  | some v => forwardStore m chCount ch v target

/-- `store(channel, string) -> ok|error` (R91), as the operations it issues; none for an attribute that
has no write function. The number base and the white space rules are not given (N21), so `parse` is an
argument. -/
def storeAttribute (parse : String → Option Int) (m : HostMap) (chCount : Nat) (a : Attribute) (ch : Nat)
    (text : String) : Option (Except ErrorKind (List Instr)) :=
  a.stores.map fun target =>
    (attributeChannel chCount a ch).bind fun c => storeParsed m chCount c target (parse text)

/-! ### Set-up of the channels (R92) -/

/-- Of the fixed maximum, the channels enabled by configuration. -/
def enabledChannels (chCount : Nat) (enabled : List Nat) : List Nat :=
  (List.range chCount).filter enabled.contains

/-- A channel descriptor, bound to the shared catalogue. -/
structure ChannelDescriptor where
  channel : Nat
  catalogue : List Attribute

/-- Channel enumeration at set-up: exactly as many descriptors as channels are enabled, each bound to
the one catalogue. `allocates n`: whether n descriptors can be allocated, which lies outside (R6);
where they cannot it is `OutOfMemory` (R92, R97, R101). No operation of the block is issued. -/
def setupChannels (chCount : Nat) (enabled : List Nat) (catalogue : List Attribute)
    (allocates : Nat → Bool) : Except ErrorKind (List ChannelDescriptor) :=
  let channels := enabledChannels chCount enabled
  if allocates channels.length then
    .ok (channels.map fun ch => { channel := ch, catalogue := catalogue })
  else .error .outOfMemory

end Sys2Proof.Machine
end

