-- ==== Sys2Proof/Safety.lean ====
section
/-! DEFINITION. The vocabulary of the statements: the invariant every step keeps, which frames the
block puts on the link, what two states agree on, and the condition on an exchange's answer. -/

namespace Sys2Proof.Machine

/-- A frame the block may have handed to the transport: 2 or 3 bytes (R45), its register address not
above `REG_ADDR_MAX` (R54), and a zero data byte when it is a read (R51). -/
def frameLegal (cfg : Config) (f : List Byte) : Bool :=
  (f.length == 2 || f.length == 3) &&
    regValid cfg (splitCtrl cfg (f.getD 0 0)).reg &&
    ((splitCtrl cfg (f.getD 0 0)).rw || f.getD 1 0 == 0x00)

/-- The invariant: valid parameters (R8); the remote registers and latches in canonical form; between
operations `BUSY` = 0 and `PHASE` = IDLE (R19, R20); a live instance's chip address fits its field
(R15); `CH_COUNT` is the parameter (R17); every frame sent is legal. -/
abbrev State.Inv (s : State) : Prop :=
  s.cfg.Valid ∧ memoryWf s.remote ∧ latchesWf s.latched ∧ s.busy = false ∧ s.phase = .idle ∧
    (s.live = true → chipFits s.cfg s.chipAddr = true) ∧ s.chCount = s.cfg.chCount ∧
    ∀ f ∈ s.sent, frameLegal s.cfg f = true

/-- The instance is there and free: what an operation on it requires (R18, R19). -/
abbrev State.Ready (s : State) : Prop := s.live = true ∧ s.busy = false

/-- The next exchange is answered with `d`: the answer waits at the head of the script. -/
abbrev State.AnswersNext (s : State) (d : Draw) : Prop := s.script.head? = some (.answered d)

/-- The transport answers every exchange (R128): no entry of the script is an exchange that never
returns. What the free values answer is an answer always. -/
abbrev State.AlwaysAnswers (s : State) : Prop := ∀ x ∈ s.script, x ≠ .never

/-- What no operation but INIT and TEARDOWN writes: the parameters, the instance's configuration
(R15 to R18), the streams of the host and the strap, and the counters. -/
abbrev SameConfiguration (s t : State) : Prop :=
  t.cfg = s.cfg ∧ t.chipAddr = s.chipAddr ∧ t.crcEn = s.crcEn ∧ t.chCount = s.chCount ∧
    t.live = s.live ∧ t.commands = s.commands ∧ t.straps = s.straps ∧ t.gpioReads = s.gpioReads ∧
    t.frees = s.frees

/-- The two states differ in nothing but the frame buffer. -/
abbrev SameButFrameBuffer (s t : State) : Prop := t = { s with fb := t.fb }

/-- R60 in words: the remainder of the message polynomial `m` modulo `g`, a polynomial of degree 8
written with its x^8 term, by long division over GF(2), one step per message bit of degree 8 + k. -/
def polyRemainder (g : Nat) : Nat → Nat → Nat
  | 0, m => m
  | k + 1, m => polyRemainder g k (if m.testBit (k + 8) then m ^^^ (g <<< k) else m)

/-- A response of three bytes with bit `k` flipped, k = 0 being bit 0 of the CRC byte, k = 23 bit 7 of
byte 0. -/
def flipBit (f : FrameBuffer) (k : Nat) : FrameBuffer :=
  if k < 8 then { f with b2 := f.b2 ^^^ (1#8 <<< k) }
  else if k < 16 then { f with b1 := f.b1 ^^^ (1#8 <<< (k - 8)) }
  else { f with b0 := f.b0 ^^^ (1#8 <<< (k - 16)) }

/-- The response `rx` of an instance in mode `crcEn` is intact (R50): nothing to check with CRC off. -/
abbrev Intact (cfg : Config) (crcEn : Bool) (rx : FrameBuffer) : Prop :=
  crcEn = true → crc8 cfg rx.b0 rx.b1 .inbound = rx.b2

/-- A read frame took effect in the device: one as the block builds it (`asBuilt`) certainly when its
exchange was answered (R71, presuming R117: log 28), and any that failed, or that has another CRC byte
than R48 gives, as the draw says (R99, U19). -/
def readTook (asBuilt : Bool) (d : Draw) : Bool :=
  match d.answer with
  | .ok _ => asBuilt || d.taken
  | .fail _ => d.taken

/-- What a write of `data` to the register at `key` did to the device (R72): if the device took it that
register holds `data`; every other register, and that one too if it did not, is as the device's own
changes leave it (log 6); no latch is cleared (log 7). -/
abbrev WroteTo (s t : State) (d : Draw) (key : Nat) (data : Byte) : Prop :=
  (d.taken = true → memoryRead t.remote key = some data) ∧
  (∀ a, (d.taken = false ∨ a ≠ key) →
    memoryRead t.remote a = memoryRead (memoryChange s.remote d.drift) a) ∧
  ∀ x, x ∈ t.latched ↔ x ∈ s.latched ∨ ∃ l ∈ d.latch, x = l.toNat

/-- What a read of the register at `key` did to the device (R38, R124): if it took effect, `took`, the
latch of that register is cleared and no other; every register is as the device's own changes leave it
(log 6, 7). -/
abbrev ReadFrom (s t : State) (d : Draw) (took : Bool) (key : Nat) : Prop :=
  (took = true →
    (∀ a, memoryRead t.remote a =
      memoryRead (memoryChange (memoryChange s.remote d.drift) d.readEffect) a) ∧
    ∀ x, x ∈ t.latched ↔ (x ∈ s.latched ∨ ∃ l ∈ d.latch, x = l.toNat) ∧ x ≠ key) ∧
  (took = false →
    (∀ a, memoryRead t.remote a = memoryRead (memoryChange s.remote d.drift) a) ∧
    ∀ x, x ∈ t.latched ↔ x ∈ s.latched ∨ ∃ l ∈ d.latch, x = l.toNat)

/-- The remote registers after reads that took effect, one for each draw, in order: the device's own
changes before each, then what it attaches to the read (R38, R119; log 6). -/
def remoteAfterReads (m : List Host.Cell) : List Draw → List Host.Cell
  | [] => m
  | d :: rest => remoteAfterReads (memoryChange (memoryChange m d.drift) d.readEffect) rest

/-- Whether the latch of register `x`, set before if `before`, is set after reads that took effect, each
of the register at its key: set too if the device set it by itself, and cleared by a read of `x` (R38;
log 7). -/
def LatchedAfterReads (x : Nat) (before : Prop) : List (Nat × Draw) → Prop
  | [] => before
  | (key, d) :: rest => LatchedAfterReads x ((before ∨ ∃ l ∈ d.latch, x = l.toNat) ∧ x ≠ key) rest

/-- What happens at the exchange that comes after `n` more from `s`: the answer that waits there, else
the free value; none if it never returns (R23; log 3). -/
def State.drawAt (s : State) (n : Nat) : Option Draw :=
  match s.script[n]? with
  | none => some (Config.freeDraw (s.sent.length + n))
  | some .never => none
  | some (.answered d) => some d

/-- What REG.READ returns for an answer (R71): the data byte, `IntegrityFailure`, or the transport's
error unchanged (R99, R100). -/
def readResult (cfg : Config) (crcEn : Bool) : Answer → Result
  | .ok rx =>
      if crcEn = true ∧ crc8 cfg rx.b0 rx.b1 .inbound ≠ rx.b2 then .err .integrityFailure
      else .ok (.byte rx.b1)
  | .fail e => .err (.transportFailure e)

/-- What REG.WRITE returns for an answer (R72). -/
def writeResult : Answer → Result
  | .ok _ => .ok .unit
  | .fail e => .err (.transportFailure e)

/-- The instruction is one of the five pure functions, or a response frame parsed by one (R44). -/
def isPure : Instr → Bool
  | .regwrF16 _ _ _ => false
  | .regrdF16 _ _ => false
  | .regwrF24 _ _ _ _ => false
  | .regrdF24 _ _ _ => false
  | .rspR16 _ _ => true
  | .rspR24 _ _ _ => true
  | .crcCompute _ _ _ => true
  | .crcVerify _ _ _ => true
  | .encWrite _ _ _ _ => true
  | .encRead _ _ _ => true
  | .decResp _ _ => true
  | .regRead _ => false
  | .regWrite _ _ => false
  | .regUpdate _ _ _ => false
  | .dbgRead _ => false
  | .dbgWrite _ _ => false
  | .init _ _ => false
  | .teardown => false

/-- The operation needs a live instance (R18): all but INIT, the pure functions and the response
frames, which are parsed by one of them. -/
def needsInstance : Instr → Bool
  | .regwrF16 _ _ _ => true
  | .regrdF16 _ _ => true
  | .regwrF24 _ _ _ _ => true
  | .regrdF24 _ _ _ => true
  | .rspR16 _ _ => false
  | .rspR24 _ _ _ => false
  | .crcCompute _ _ _ => false
  | .crcVerify _ _ _ => false
  | .encWrite _ _ _ _ => false
  | .encRead _ _ _ => false
  | .decResp _ _ => false
  | .regRead _ => true
  | .regWrite _ _ => true
  | .regUpdate _ _ _ => true
  | .dbgRead _ => true
  | .dbgWrite _ _ => true
  | .init _ _ => false
  | .teardown => true

/-- The instruction may make exchanges: the register operations, INIT, and the request frames. -/
def accessesDevice : Instr → Bool
  | .regwrF16 _ _ _ => true
  | .regrdF16 _ _ => true
  | .regwrF24 _ _ _ _ => true
  | .regrdF24 _ _ _ => true
  | .rspR16 _ _ => false
  | .rspR24 _ _ _ => false
  | .crcCompute _ _ _ => false
  | .crcVerify _ _ _ => false
  | .encWrite _ _ _ _ => false
  | .encRead _ _ _ => false
  | .decResp _ _ => false
  | .regRead _ => true
  | .regWrite _ _ => true
  | .regUpdate _ _ _ => true
  | .dbgRead _ => true
  | .dbgWrite _ _ => true
  | .init _ _ => true
  | .teardown => false

end Sys2Proof.Machine
end

