-- ==== Sys2Proof/Certificates/Slice0/Obligations.lean ====
section
/-! DEFINITION. The statements for the provers. Each docstring names the rule of spec/ it comes from
and, where it rests on a choice of the model, the log entry. -/

open Sys2Proof Sys2Proof.Machine

/-! ### Frames and their encoding (30_encoding.md) -/

/-- R45 to R51, R59: decoding the bytes of a well-formed frame gives the frame back, for every
parameter, chip address, register address and byte. -/
def Obligations.FrameDecodeEncodeRoundTrip : Prop :=
  ∀ (cfg : Config) (i : Instr) (bytes : List Byte), cfg.Valid → i.wellFormed cfg = true →
    encode cfg i = some bytes → decodeFrame cfg i.dir bytes = .ok i

/-- R52, R59: bytes that decode to a frame are exactly what that frame encodes to. -/
def Obligations.DecodedFrameEncodesBack : Prop :=
  ∀ (cfg : Config) (dir : Dir) (bytes : List Byte) (i : Instr), cfg.Valid →
    decodeFrame cfg dir bytes = .ok i → encode cfg i = some bytes ∧ i.dir = dir

/-- R47, R52: every control byte is one triple of fields, cut out by the slices of R52; `CTRL` of it
is the byte, and no other triple in range gives that byte. -/
def Obligations.ControlByteDecodesToOneTriple : Prop :=
  ∀ (cfg : Config) (c : Byte), cfg.Valid →
    (splitCtrl cfg c).chip = c.toNat / 2 ^ (8 - cfg.chipAddrW) ∧
    (splitCtrl cfg c).reg = c.toNat / 2 % 2 ^ (7 - cfg.chipAddrW) ∧
    (splitCtrl cfg c).rw = decide (c.toNat % 2 = 1) ∧
    ctrl cfg (splitCtrl cfg c).chip (splitCtrl cfg c).reg (splitCtrl cfg c).rw = c ∧
    ∀ (chip reg : Nat) (rw : Bool), chip < 2 ^ cfg.chipAddrW → reg < 2 ^ (7 - cfg.chipAddrW) →
      ctrl cfg chip reg rw = c →
      chip = (splitCtrl cfg c).chip ∧ reg = (splitCtrl cfg c).reg ∧ rw = (splitCtrl cfg c).rw

/-- R28, R29, R47: the key under which the model keeps a remote register (log 6) is the chip address
followed by the register address, so two registers never share one. -/
def Obligations.LinkKeyNamesOneRegister : Prop :=
  ∀ (cfg : Config) (chip reg : Nat), cfg.Valid → chipFits cfg chip = true →
    regFits cfg reg = true → linkKey cfg chip reg = chip * 2 ^ (7 - cfg.chipAddrW) + reg

/-- R46 to R51: words written out from the formats, reference widths (V-CTL-6, V-CTL-7, V-ENC-2,
V-ENC-4), decode to their instructions. -/
def Obligations.KnownWordsDecode : Prop :=
  decodeTableWord 16 0x955C = some (.regwrF16 2 0x0A 0x5C) ∧
  decodeTableWord 16 0x9400 = some (.regrdF16 2 0x0A) ∧
  decodeTableWord 24 0x955C33 = some (.regwrF24 2 0x0A 0x5C 0x33) ∧
  decodeTableWord 24 0x9400B5 = some (.regrdF24 2 0x0A 0xB5) ∧
  decodeFrame Config.reference .inbound [0xC3, 0x5C] = .ok (.rspR16 0xC3 0x5C) ∧
  decodeFrame Config.reference .inbound [0xC3, 0x5C, 0x41] = .ok (.rspR24 0xC3 0x5C 0x41)

/-- R45, R51, R59: no other length is a frame, and a request that reads carries the data byte 0x00. -/
def Obligations.NoOtherBytesAreFrames : Prop :=
  (∀ (cfg : Config) (dir : Dir) (bytes : List Byte), bytes.length ≠ 2 → bytes.length ≠ 3 →
    decodeFrame cfg dir bytes = .error .badLength) ∧
  ∀ (cfg : Config) (c d : Byte) (rest : List Byte), rest.length ≤ 1 → c.getLsbD 0 = false →
    d ≠ 0x00 → decodeFrame cfg .outbound (c :: d :: rest) = .error .readDataNotZero

/-! ### CRC engine (40_crc_engine.md) -/

/-- R60 ("In words"): the loop computes the remainder of the sixteen message bits times x^8, started
from the initial value, modulo the generator polynomial; reflection and xor as the parameters say. That
the CRC has this form, the direction selecting the initial value, is the spec's own choice (D1, D2; log
2). -/
def Obligations.CrcIsPolynomialRemainder : Prop :=
  ∀ (cfg : Config) (b0 b1 : Byte) (dir : Dir),
    let v (b : Byte) : Byte := if cfg.crcRefIn then b.reverse else b
    let start : Byte := match dir with | .outbound => cfg.crcInitOut | .inbound => cfg.crcInitIn
    let r : Byte := BitVec.ofNat 8
      (polyRemainder (0x100 + cfg.crcPoly.toNat) 16
        (((v b0 ^^^ start).toNat * 0x100 + (v b1).toNat) * 0x100))
    crc8 cfg b0 b1 dir = (if cfg.crcRefOut then r.reverse else r) ^^^ cfg.crcXorOut

/-- R62: flipping any one of the sixteen message bits changes the CRC, in either direction, when bit 0
of the polynomial is 1. (That R62 also says "exactly when" is not stated here, log 24.) -/
def Obligations.SingleBitFlipChangesCrc : Prop :=
  ∀ (cfg : Config) (b0 b1 : Byte) (dir : Dir) (k : Nat), cfg.crcPoly.getLsbD 0 = true → k < 8 →
    crc8 cfg b0 (b1 ^^^ (1#8 <<< k)) dir ≠ crc8 cfg b0 b1 dir ∧
    crc8 cfg (b0 ^^^ (1#8 <<< k)) b1 dir ≠ crc8 cfg b0 b1 dir

/-- R62, R71, S2: a response with CRC that differs from an intact one in a single bit, any of the 24,
makes REG.READ, DBG.READ and the read of REG.UPDATE return `IntegrityFailure`. -/
def Obligations.CorruptedResponseIsIntegrityFailure : Prop :=
  ∀ (s : State) (op : RegOperand) (reg : Nat) (d : Draw) (rx : FrameBuffer) (k : Nat) (i : Instr),
    s.cfg.Valid → s.Ready → s.crcEn = true → operandAddress s.chCount op = .ok reg →
    regValid s.cfg reg = true → s.AnswersNext d → Intact s.cfg true rx → k < 24 →
    d.answer = .ok (flipBit rx k) →
    (i = .regRead op ∨ i = .dbgRead reg ∨ ∃ mask value, i = .regUpdate op mask value) →
    ∃ t, exec i s = .next t ∧ t.result = some (.err .integrityFailure) ∧
      t.sent = s.sent ++ [encRead s.cfg s.chipAddr reg true]

/-- R60, R63: CRC.COMPUTE and CRC.VERIFY complete in every state with the CRC, and with the comparison
of the inbound CRC, and change nothing else. -/
def Obligations.CrcOperationsComplete : Prop :=
  ∀ (s : State) (b0 b1 expected : Byte) (dir : Dir),
    exec (.crcCompute b0 b1 dir) s =
      .next { s with result := some (.ok (.byte (crc8 s.cfg b0 b1 dir))) } ∧
    exec (.crcVerify b0 b1 expected) s =
      .next { s with result := some (.ok (.bool (decide (crc8 s.cfg b0 b1 .inbound = expected)))) }

/-- R61, R70: the direction selects the initial value and nothing else; so the two directions agree on
one pair of bytes exactly when they agree on all, that is when the initial values are equal. That the
flag selects just this is the spec's own choice (D2; log 2): the source does not say what it
changes. -/
def Obligations.DirectionSelectsInitialValue : Prop :=
  ∀ (cfg : Config) (b0 b1 : Byte), cfg.Valid →
    (crc8 cfg b0 b1 .outbound = crc8 cfg b0 b1 .inbound ↔ cfg.crcInitOut = cfg.crcInitIn) ∧
    crc8 cfg b0 b1 .outbound = crc8 { cfg with crcInitIn := cfg.crcInitOut } b0 b1 .inbound

/-! ### Frame codec (41_frame_codec.md) -/

/-- R51, R66: the data byte of a read frame is zero, and its CRC is computed over the control byte with
a zero data byte. ENC.READ completes with that frame. That operands too wide are refused is the spec's
own choice (D27, U15; log 23). -/
def Obligations.EncReadZeroFillsTheDataByte : Prop :=
  ∀ (s : State) (chip reg : Nat) (c : Bool),
    (chip < 2 ^ s.cfg.chipAddrW → reg < 2 ^ (7 - s.cfg.chipAddrW) →
      exec (.encRead chip reg c) s =
        .next { s with result := some (.ok (.bytes
          (if c then [ctrl s.cfg chip reg false, 0x00,
              crc8 s.cfg (ctrl s.cfg chip reg false) 0x00 .outbound]
            else [ctrl s.cfg chip reg false, 0x00]))) }) ∧
    (¬(chip < 2 ^ s.cfg.chipAddrW ∧ reg < 2 ^ (7 - s.cfg.chipAddrW)) →
      exec (.encRead chip reg c) s = .refused .fieldTooWide)

/-- R65: ENC.WRITE completes with the control byte (R/W = 1), the data byte, and with CRC on the
outbound CRC of the two. That operands too wide are refused is the spec's own choice (D27, U15; log
23). -/
def Obligations.EncWriteBuildsTheFrame : Prop :=
  ∀ (s : State) (chip reg : Nat) (data : Byte) (c : Bool),
    (chip < 2 ^ s.cfg.chipAddrW → reg < 2 ^ (7 - s.cfg.chipAddrW) →
      exec (.encWrite chip reg data c) s =
        .next { s with result := some (.ok (.bytes
          (if c then [ctrl s.cfg chip reg true, data,
              crc8 s.cfg (ctrl s.cfg chip reg true) data .outbound]
            else [ctrl s.cfg chip reg true, data]))) }) ∧
    (¬(chip < 2 ^ s.cfg.chipAddrW ∧ reg < 2 ^ (7 - s.cfg.chipAddrW)) →
      exec (.encWrite chip reg data c) s = .refused .fieldTooWide)

/-- R67, R68: DEC.RESP completes on every buffer: shorter than the frame, rejected with
`InvalidArgument`, a kind the spec chose (D12; log 23); else the byte at index 1 with true (CRC off,
R67's inference), or with whether byte 2 is the inbound CRC of bytes 0 and 1; longer buffers are
accepted and the rest is not read (U11). -/
def Obligations.DecodeResponseCompletes : Prop :=
  ∀ (s : State) (f : List Byte) (c : Bool),
    (f.length < (if c then 3 else 2) →
      exec (.decResp f c) s = .next { s with result := some (.err .invalidArgument) }) ∧
    (∀ f0 f1 rest, f = f0 :: f1 :: rest → c = false →
      exec (.decResp f c) s = .next { s with result := some (.ok (.decoded f1 true)) }) ∧
    (∀ f0 f1 f2 rest, f = f0 :: f1 :: f2 :: rest → c = true →
      exec (.decResp f c) s =
        .next { s with
          result := some (.ok (.decoded f1 (decide (crc8 s.cfg f0 f1 .inbound = f2)))) })

/-- R49, R50: the two response frames complete as the decoder parses them: the byte at offset 1, and
intact exactly when the trailing byte is the inbound CRC of the first two (log 15). -/
def Obligations.ResponseFramesAreParsed : Prop :=
  ∀ (s : State) (rx0 rdata rcrc : Byte),
    exec (.rspR16 rx0 rdata) s =
      .next { s with result := some (.ok (.decoded rdata true)) } ∧
    exec (.rspR24 rx0 rdata rcrc) s =
      .next { s with
        result := some (.ok (.decoded rdata (decide (rcrc = crc8 s.cfg rx0 rdata .inbound)))) }

/-- R70: an encoded write looped back decodes to its data byte. The clauses on `integrity_ok` are the
inference R70 marks as its own and rest on the form of the CRC (D2; log 2): true with CRC off, and with
CRC on exactly when the two directions give these bytes one CRC, which holds for all bytes if and only
if the initial values are equal. -/
def Obligations.EncodedWriteRoundTripsData : Prop :=
  ∀ (s : State) (chip reg : Nat) (data : Byte) (c : Bool), s.cfg.Valid →
    chip < 2 ^ s.cfg.chipAddrW → reg < 2 ^ (7 - s.cfg.chipAddrW) →
    ∃ t f ok t', exec (.encWrite chip reg data c) s = .next t ∧
      t.result = some (.ok (.bytes f)) ∧ exec (.decResp f c) t = .next t' ∧
      t'.result = some (.ok (.decoded data ok)) ∧
      (c = false → ok = true) ∧
      (c = true → (ok = true ↔
        crc8 s.cfg (ctrl s.cfg chip reg true) data .outbound =
          crc8 s.cfg (ctrl s.cfg chip reg true) data .inbound)) ∧
      ((∀ f0 f1, crc8 s.cfg f0 f1 .outbound = crc8 s.cfg f0 f1 .inbound) ↔
        s.cfg.crcInitOut = s.cfg.crcInitIn)

/-- R44, R60, R69: a pure operation changes nothing but the result handed to its caller, and its result
depends on its operands and the parameters alone. The response rows are among them because the model
executes one as DEC.RESP (log 15). -/
def Obligations.PureOperationsChangeOnlyTheResult : Prop :=
  ∀ (i : Instr) (s s' t : State), isPure i = true → exec i s = .next t → s'.cfg = s.cfg →
    t = { s with result := t.result } ∧ exec i s' = .next { s' with result := t.result }

/-! ### Register access (42_register_access.md) -/

/-- R71, R75, R76, R99, R100: a register read (REG.READ, direct or banked, and DBG.READ) of a valid
address sends exactly its read frame once and completes: with the data byte, with `IntegrityFailure`
(CRC on and no match) or with the transport's error unchanged; the instance's configuration is
untouched. The two clauses on `FB` (the response, or after a failed exchange the frame sent) are the
model's reading of R71 and R107, which R13 and U5 leave unspecified to the host (log 18). -/
def Obligations.ReadCompletesWithTheAnswer : Prop :=
  ∀ (s : State) (op : RegOperand) (reg : Nat) (d : Draw) (i : Instr),
    s.Ready → operandAddress s.chCount op = .ok reg → reg ≤ s.cfg.regAddrMax → s.AnswersNext d →
    (i = .regRead op ∨ i = .dbgRead reg) →
    ∃ t, exec i s = .next t ∧ t.result = some (readResult s.cfg s.crcEn d.answer) ∧
      t.sent = s.sent ++ [encRead s.cfg s.chipAddr reg s.crcEn] ∧
      t.script = s.script.tail ∧ t.busy = false ∧ t.phase = .idle ∧ SameConfiguration s t ∧
      (∀ rx, d.answer = .ok rx → t.fb = fbStore s.fb rx s.crcEn) ∧
      (∀ e, d.answer = .fail e → fbFrame t.fb s.crcEn = encRead s.cfg s.chipAddr reg s.crcEn)

/-- R38, R71, R124: what a register read does to the device. Whenever its exchange was made the latch
of the register read is cleared, even when the response fails its check, and possibly when the
exchange failed; every register else is as the device's own changes leave it (log 6, 7). It presumes
R117 as the model does (log 28). -/
def Obligations.ReadEffectOnTheDevice : Prop :=
  ∀ (s t : State) (op : RegOperand) (reg : Nat) (d : Draw) (i : Instr),
    s.cfg.Valid → operandAddress s.chCount op = .ok reg → reg ≤ s.cfg.regAddrMax →
    s.AnswersNext d → (i = .regRead op ∨ i = .dbgRead reg) → exec i s = .next t →
    ReadFrom s t d (readTook true d) (linkKey s.cfg s.chipAddr reg)

/-- R72, R75, R77, R99: a register write (REG.WRITE, direct or banked, and DBG.WRITE) to a valid
address sends exactly its write frame once and completes with `Ok`, whatever the response, or with the
transport's error unchanged; the instance's configuration is untouched. The two clauses on `FB` (the
response, or after a failed exchange the frame sent) are the model's reading of R72 and R107 (log
18). -/
def Obligations.WriteCompletes : Prop :=
  ∀ (s : State) (op : RegOperand) (reg : Nat) (data : Byte) (d : Draw) (i : Instr),
    s.Ready → operandAddress s.chCount op = .ok reg → reg ≤ s.cfg.regAddrMax → s.AnswersNext d →
    (i = .regWrite op data ∨ i = .dbgWrite reg data) →
    ∃ t, exec i s = .next t ∧ t.result = some (writeResult d.answer) ∧
      t.sent = s.sent ++ [encWrite s.cfg s.chipAddr reg data s.crcEn] ∧
      t.script = s.script.tail ∧ t.busy = false ∧ t.phase = .idle ∧ SameConfiguration s t ∧
      (∀ rx, d.answer = .ok rx → t.fb = fbStore s.fb rx s.crcEn) ∧
      (∀ e, d.answer = .fail e →
        fbFrame t.fb s.crcEn = encWrite s.cfg s.chipAddr reg data s.crcEn)

/-- R72: the remote register a write stores to, when the device takes it, is the one addressed, with the
byte written. That every other register is then as the device's own changes leave it (log 6), and that
a write clears no latch (log 7), is the model's choice. -/
def Obligations.WriteStoresToOneRemoteRegister : Prop :=
  ∀ (s t : State) (op : RegOperand) (reg : Nat) (data : Byte) (d : Draw) (i : Instr),
    s.cfg.Valid → operandAddress s.chCount op = .ok reg → reg ≤ s.cfg.regAddrMax →
    s.AnswersNext d → (i = .regWrite op data ∨ i = .dbgWrite reg data) → exec i s = .next t →
    WroteTo s t d (linkKey s.cfg s.chipAddr reg) data

/-- R72, R126: the response to a write is not examined. Two runs whose answers differ only in the
bytes received end alike but for the frame buffer. -/
def Obligations.WriteResponseNotExamined : Prop :=
  ∀ (s t : State) (op : RegOperand) (data : Byte) (d : Draw) (rx rx' : FrameBuffer)
    (rest : List Exchange) (i : Instr) (addr : Nat),
    s.script = .answered d :: rest → d.answer = .ok rx →
    (i = .regWrite op data ∨ i = .dbgWrite addr data) → exec i s = .next t →
    ∃ t', exec i { s with script := .answered { d with answer := .ok rx' } :: rest } = .next t' ∧
      t'.result = t.result ∧ (t.result ≠ some (.err .invalidArgument) → SameButFrameBuffer t t')

/-- R73, S3: REG.UPDATE is REG.READ of the register and, unless that fails, REG.WRITE of
`(old & ~mask) | (value & mask)`; a failed read is the update's error and nothing is written. -/
def Obligations.UpdateIsReadThenWrite : Prop :=
  ∀ (s t : State) (op : RegOperand) (mask value : Byte), exec (.regRead op) s = .next t →
    (∀ old, t.result = some (.ok (.byte old)) →
      exec (.regUpdate op mask value) s =
        exec (.regWrite op ((old &&& ~~~mask) ||| (value &&& mask))) t) ∧
    (∀ k, t.result = some (.err k) → exec (.regUpdate op mask value) s = .next t)

/-- R73, R119: with both exchanges answered and the read intact, REG.UPDATE completes after exactly two
frames, the read and the write of the combination computed from the byte read; and the register holds
that combination when the device takes the write, whatever the device did to it in between. That no
other register is stored to, and in which order the device's own changes come, is the model's choice
(log 6); the read's latch is cleared and no other (R38, R124; log 7). That the answered read takes effect,
its latch cleared and its read effect there, presumes R117 (log 28). -/
def Obligations.UpdateCompletesInTwoExchanges : Prop :=
  ∀ (s : State) (op : RegOperand) (reg : Nat) (mask value : Byte) (d₁ d₂ : Draw)
    (rest : List Exchange) (rx : FrameBuffer),
    s.cfg.Valid → s.Ready → operandAddress s.chCount op = .ok reg → reg ≤ s.cfg.regAddrMax →
    s.script = .answered d₁ :: .answered d₂ :: rest → d₁.answer = .ok rx → Intact s.cfg s.crcEn rx →
    ∃ t, exec (.regUpdate op mask value) s = .next t ∧ t.result = some (writeResult d₂.answer) ∧
      t.sent = s.sent ++
        [encRead s.cfg s.chipAddr reg s.crcEn,
          encWrite s.cfg s.chipAddr reg ((rx.b1 &&& ~~~mask) ||| (value &&& mask)) s.crcEn] ∧
      t.script = rest ∧ t.busy = false ∧ t.phase = .idle ∧ SameConfiguration s t ∧
      (d₂.taken = true → memoryRead t.remote (linkKey s.cfg s.chipAddr reg) =
        some ((rx.b1 &&& ~~~mask) ||| (value &&& mask))) ∧
      (∀ a, (d₂.taken = false ∨ a ≠ linkKey s.cfg s.chipAddr reg) →
        memoryRead t.remote a =
          memoryRead (memoryChange (memoryChange (memoryChange s.remote d₁.drift) d₁.readEffect)
            d₂.drift) a) ∧
      ∀ x, x ∈ t.latched ↔
        ((x ∈ s.latched ∨ ∃ l ∈ d₁.latch, x = l.toNat) ∧ x ≠ linkKey s.cfg s.chipAddr reg) ∨
          ∃ l ∈ d₂.latch, x = l.toNat

/-- R73, R129 a: the masked combination takes each bit of `value` inside the mask and of `old`
outside; in particular mask 0x00 gives `old` and mask 0xFF gives `value`. -/
def Obligations.MaskedUpdateBits : Prop :=
  ∀ (old mask value : Byte),
    (∀ k, k < 8 → (maskedUpdate old mask value).getLsbD k =
      if mask.getLsbD k then value.getLsbD k else old.getLsbD k) ∧
    maskedUpdate old 0x00 value = old ∧ maskedUpdate old 0xFF value = value

/-- R76, R77: the debug path is the register path, in every state and for every operand. That it is,
range check included, is the spec's own choice (D22; log 23). -/
def Obligations.DebugPathIsTheRegisterPath : Prop :=
  ∀ (s : State) (addr : Nat) (val : Byte),
    exec (.dbgRead addr) s = exec (.regRead (.direct addr)) s ∧
    exec (.dbgWrite addr val) s = exec (.regWrite (.direct addr) val) s

/-- R74: on an address above `REG_ADDR_MAX`, direct or banked, all five operations return
`InvalidArgument`, having built no frame, made no exchange and changed no state, `FB` included. -/
def Obligations.InvalidAddressTouchesNothing : Prop :=
  ∀ (s : State) (op : RegOperand) (reg : Nat) (data mask value : Byte) (i : Instr),
    s.Ready → s.phase = .idle → operandAddress s.chCount op = .ok reg → s.cfg.regAddrMax < reg →
    (i = .regRead op ∨ i = .regWrite op data ∨ i = .regUpdate op mask value ∨ i = .dbgRead reg ∨
      i = .dbgWrite reg data) →
    exec i s = .next { s with result := some (.err .invalidArgument) }

/-- R75, R30, S5: a banked operand with a channel index at or above `CH_COUNT` is `InvalidArgument`
with nothing touched; below it, the operation is the one on base + channel index, a sum that does not
wrap. That REG.READ, REG.WRITE and REG.UPDATE take the banked form themselves, which R75 gives to the
layer above, is the model's choice (log 16). -/
def Obligations.BankedOperandChecksTheChannelFirst : Prop :=
  ∀ (s : State) (base ch : Nat) (data mask value : Byte),
    let onOperand (op : RegOperand) : List Instr :=
      [.regRead op, .regWrite op data, .regUpdate op mask value]
    (s.Ready → s.phase = .idle → s.chCount ≤ ch → ∀ i ∈ onOperand (.banked base ch),
      exec i s = .next { s with result := some (.err .invalidArgument) }) ∧
    (ch < s.chCount →
      (onOperand (.banked base ch)).map (fun i => exec i s) =
        (onOperand (.direct (base + ch))).map (fun i => exec i s))

/-- R78: exchanges per operation: none for `InvalidArgument`; otherwise one for a read and for a
write, and for an update one when its read fails and two when it does not. -/
def Obligations.ExchangeCountsPerOperation : Prop :=
  (∀ (s t : State) (op : RegOperand) (addr : Nat) (data : Byte) (i : Instr),
    (i = .regRead op ∨ i = .regWrite op data ∨ i = .dbgRead addr ∨ i = .dbgWrite addr data) →
    exec i s = .next t →
    t.sent.length =
      s.sent.length + if t.result = some (.err .invalidArgument) then 0 else 1) ∧
  ∀ (s t r : State) (op : RegOperand) (mask value : Byte),
    exec (.regRead op) s = .next r → exec (.regUpdate op mask value) s = .next t →
    (r.result = some (.err .invalidArgument) → t.sent.length = s.sent.length) ∧
    (∀ k, r.result = some (.err k) → k ≠ .invalidArgument → t.sent.length = s.sent.length + 1) ∧
    (∀ v, r.result = some (.ok v) → t.sent.length = s.sent.length + 2)

/-! ### Request frames on the link (30_encoding.md) -/

/-- R29, R45 to R51: a request frame of the instance (its chip address, its mode, a valid register
address), with any CRC byte, goes out once, byte for byte as it is encoded, and completes as a write or
a read does, `FB` and the device with it: a write stores to no register but the one addressed and
clears no latch, a read stores to none and clears at most the latch of the one addressed. What
executing a frame means is the model's choice (log 13, 14), and so are the clauses on `FB` (log 18) and
on the device (log 6, 7, 28): a read frame whose CRC byte is not that of R48 may not have taken effect
(U19). Frames with another chip address are refused: FramesNotOfTheInstance. -/
def Obligations.RequestFramesComplete : Prop :=
  ∀ (s : State) (reg : Nat) (data crc : Byte) (d : Draw), s.cfg.Valid → s.Ready →
    chipFits s.cfg s.chipAddr = true → reg ≤ s.cfg.regAddrMax → s.AnswersNext d →
    let key := linkKey s.cfg s.chipAddr reg
    let asBuilt := decide (crc = crc8 s.cfg (ctrl s.cfg s.chipAddr reg false) 0x00 .outbound)
    let Sends (i : Instr) (r : Result) (OnDevice : State → Prop) : Prop :=
      ∃ t f, exec i s = .next t ∧ encode s.cfg i = some f ∧ t.sent = s.sent ++ [f] ∧
        t.result = some r ∧ t.script = s.script.tail ∧ t.busy = false ∧ t.phase = .idle ∧
        SameConfiguration s t ∧ (∀ rx, d.answer = .ok rx → t.fb = fbStore s.fb rx s.crcEn) ∧
        (∀ e, d.answer = .fail e → fbFrame t.fb s.crcEn = f) ∧ OnDevice t
    (s.crcEn = false →
      Sends (.regwrF16 s.chipAddr reg data) (writeResult d.answer) (WroteTo s · d key data) ∧
      Sends (.regrdF16 s.chipAddr reg) (readResult s.cfg false d.answer)
        (ReadFrom s · d (readTook true d) key)) ∧
    (s.crcEn = true →
      Sends (.regwrF24 s.chipAddr reg data crc) (writeResult d.answer) (WroteTo s · d key data) ∧
      Sends (.regrdF24 s.chipAddr reg crc) (readResult s.cfg true d.answer)
        (ReadFrom s · d (readTook asBuilt d) key))

/-- R65, R66, R71, R72, R48: the frame that ENC.WRITE or ENC.READ builds for the instance's own chip
address does, sent as a frame, what REG.WRITE or REG.READ of that register does. That this is what
executing a request frame means is the model's choice (log 13). -/
def Obligations.FrameRowIsItsOperation : Prop :=
  ∀ (s : State) (reg : Nat) (data : Byte), s.cfg.Valid → s.Ready →
    chipFits s.cfg s.chipAddr = true → reg ≤ s.cfg.regAddrMax →
    (s.crcEn = false →
      exec (.regwrF16 s.chipAddr reg data) s = exec (.regWrite (.direct reg) data) s ∧
      exec (.regrdF16 s.chipAddr reg) s = exec (.regRead (.direct reg)) s) ∧
    (s.crcEn = true →
      exec (.regwrF24 s.chipAddr reg data
          (crc8 s.cfg (ctrl s.cfg s.chipAddr reg true) data .outbound)) s =
        exec (.regWrite (.direct reg) data) s ∧
      exec (.regrdF24 s.chipAddr reg
          (crc8 s.cfg (ctrl s.cfg s.chipAddr reg false) 0x00 .outbound)) s =
        exec (.regRead (.direct reg)) s)

/-- R29 (a chip address other than `CHIP_ADDR` is in no outbound frame), and log 13, 26 (the model's
reading of R45, R47, R54): where a request frame is not one of this instance: fields too wide, another
chip address and the other mode's length are refused; a register address above `REG_ADDR_MAX` is
`InvalidArgument` with nothing sent. -/
def Obligations.FramesNotOfTheInstance : Prop :=
  ∀ (s : State) (chip reg : Nat) (data crc : Byte) (i : Instr) (mode : Bool), s.Ready →
    s.phase = .idle →
    (i = .regwrF16 chip reg data ∧ mode = false ∨ i = .regrdF16 chip reg ∧ mode = false ∨
      i = .regwrF24 chip reg data crc ∧ mode = true ∨ i = .regrdF24 chip reg crc ∧ mode = true) →
    (¬(chip < 2 ^ s.cfg.chipAddrW ∧ reg < 2 ^ (7 - s.cfg.chipAddrW)) →
      exec i s = .refused .fieldTooWide) ∧
    (chip < 2 ^ s.cfg.chipAddrW → reg < 2 ^ (7 - s.cfg.chipAddrW) →
      (chip ≠ s.chipAddr → exec i s = .refused .frameChipNotOfInstance) ∧
      (chip = s.chipAddr → s.crcEn ≠ mode → exec i s = .refused .frameLengthNotOfMode) ∧
      (chip = s.chipAddr → s.crcEn = mode → s.cfg.regAddrMax < reg →
        exec i s = .next { s with result := some (.err .invalidArgument) }))

/-! ### Lifecycle (44_lifecycle.md) -/

/-- R94, R116: INIT with a fitting chip address, every handshake read answered and intact, creates the
instance: configuration from the operands or the strap (read once, whether its answer waits or is a
free value: log 4), one read frame per entry of `FAULT_REGS`, in order and already in the final mode,
the data discarded. For every draw, each read clears the latch of its register and no other, the device
setting latches and changing registers by itself before each read, and no register is stored to. These
clauses are the model's choice (log 6, 7), and that each answered read takes effect presumes R117 (log
28). INIT with a failing handshake read is InitStopsAtTheFailingHandshakeRead. -/
def Obligations.InitCreatesTheInstance : Prop :=
  ∀ (s : State) (chip : Nat) (crcEn mode : Bool) (ds : List Draw) (rest : List Exchange),
    s.cfg.Valid → s.live = false → s.busy = false → chip < 2 ^ s.cfg.chipAddrW →
    (s.cfg.crcSrc = .config ∧ mode = crcEn ∨ s.cfg.crcSrc = .strap ∧ mode = s.nextStrap) →
    s.script = ds.map .answered ++ rest → ds.length = s.cfg.faultRegs.length →
    (∀ d ∈ ds, ∃ rx, d.answer = .ok rx ∧ Intact s.cfg mode rx) →
    ∃ t, exec (.init chip crcEn) s = .next t ∧ t.result = some (.ok .unit) ∧
      t.live = true ∧ t.busy = false ∧ t.phase = .idle ∧ t.chipAddr = chip ∧ t.crcEn = mode ∧
      t.cfg = s.cfg ∧ t.chCount = s.chCount ∧ t.commands = s.commands ∧ t.frees = s.frees ∧
      t.sent = s.sent ++ s.cfg.faultRegs.map (fun a => encRead s.cfg chip a mode) ∧
      t.script = rest ∧
      (s.cfg.crcSrc = .config → t.straps = s.straps ∧ t.gpioReads = s.gpioReads) ∧
      (s.cfg.crcSrc = .strap → t.straps = s.straps.tail ∧ t.gpioReads = s.gpioReads + 1) ∧
      t.remote = remoteAfterReads s.remote ds ∧
      ∀ x, x ∈ t.latched ↔
        LatchedAfterReads x (x ∈ s.latched) ((s.cfg.faultRegs.map (linkKey s.cfg chip)).zip ds)

/-- R94, D7: a chip address that does not fit, or an entry of `FAULT_REGS` out of range, is
`InvalidArgument` with no exchange and no state changed. -/
def Obligations.InitRejectsBadAddresses : Prop :=
  ∀ (s : State) (chip : Nat) (crcEn : Bool), s.live = false → s.busy = false → s.phase = .idle →
    (2 ^ s.cfg.chipAddrW ≤ chip ∨ ∃ a ∈ s.cfg.faultRegs, s.cfg.regAddrMax < a) →
    exec (.init chip crcEn) s = .next { s with result := some (.err .invalidArgument) }

/-- R94, R26: INIT that returns either succeeded, the instance is live and one frame was sent for each
entry of `FAULT_REGS`; or it returned an error, there is no instance, and there were no more frames than
entries. Which error and which frames: InitRejectsBadAddresses and
InitStopsAtTheFailingHandshakeRead. -/
def Obligations.InitEndsLiveOrWithoutInstance : Prop :=
  ∀ (s t : State) (chip : Nat) (crcEn : Bool), exec (.init chip crcEn) s = .next t →
    (t.result = some (.ok .unit) ∧ t.live = true ∧
      t.sent.length = s.sent.length + s.cfg.faultRegs.length) ∨
    (∃ k, t.result = some (.err k) ∧ t.live = false ∧
      t.sent.length ≤ s.sent.length + s.cfg.faultRegs.length)

/-- R94 (D17; log 23): the first handshake read that fails ends INIT, and its error is INIT's error: the
frames sent are the read frames of the entries of `FAULT_REGS` up to and with the failing one, in order,
and none follows; there is no instance. For every draw, each read before the failing one clears the
latch of its register, the failing read its own if it took effect (R124), and neither any other, the
device setting latches by itself before each; no register is stored to. These clauses are the model's
choice (log 6, 7), and that an answered read takes effect presumes R117 (log 28). -/
def Obligations.InitStopsAtTheFailingHandshakeRead : Prop :=
  ∀ (s : State) (chip : Nat) (crcEn mode : Bool) (ds : List Draw) (d : Draw) (rest : List Exchange)
    (a : Nat) (k : ErrorKind),
    s.cfg.Valid → s.live = false → s.busy = false → chip < 2 ^ s.cfg.chipAddrW →
    (s.cfg.crcSrc = .config ∧ mode = crcEn ∨ s.cfg.crcSrc = .strap ∧ mode = s.nextStrap) →
    s.script = ds.map .answered ++ .answered d :: rest → s.cfg.faultRegs[ds.length]? = some a →
    (∀ d' ∈ ds, ∃ rx, d'.answer = .ok rx ∧ Intact s.cfg mode rx) →
    readResult s.cfg mode d.answer = .err k →
    ∃ t, exec (.init chip crcEn) s = .next t ∧ t.result = some (.err k) ∧
      t.live = false ∧ t.busy = false ∧ t.phase = .idle ∧
      t.cfg = s.cfg ∧ t.chCount = s.chCount ∧ t.commands = s.commands ∧
      t.sent = s.sent ++
        (s.cfg.faultRegs.take (ds.length + 1)).map (fun b => encRead s.cfg chip b mode) ∧
      t.script = rest ∧
      t.remote = memoryChange (memoryChange (remoteAfterReads s.remote ds) d.drift)
        (if readTook true d then d.readEffect else []) ∧
      ∀ x, x ∈ t.latched ↔
        (LatchedAfterReads x (x ∈ s.latched) ((s.cfg.faultRegs.map (linkKey s.cfg chip)).zip ds) ∨
            ∃ l ∈ d.latch, x = l.toNat) ∧
          (readTook true d = true → x ≠ linkKey s.cfg chip a)

/-- R95: TEARDOWN on a live, free instance: it is gone, no frame is sent, the device and the streams are
untouched. That it always succeeds is the spec's own choice (D28; log 23), since the source does not say
whether releasing the handle can fail. (The registers of the instance are unspecified afterwards, R26;
log 11.) -/
def Obligations.TeardownDestroysTheInstance : Prop :=
  ∀ (s : State), s.Ready →
    ∃ t, exec .teardown s = .next t ∧ t.result = some (.ok .unit) ∧ t.live = false ∧
      t.busy = false ∧ t.phase = .idle ∧ t.sent = s.sent ∧ t.remote = s.remote ∧
      t.latched = s.latched ∧ t.cfg = s.cfg ∧ t.chCount = s.chCount ∧ t.commands = s.commands ∧
      t.script = s.script ∧ t.straps = s.straps ∧ t.gpioReads = s.gpioReads

/-- R18, R19, U1, U6: without a live instance, and on a busy one, every operation on an instance and
every request frame is refused; INIT is refused on a live one and on a busy one. That a request frame
needs a live, free instance as the operations do is the model's choice (log 13). -/
def Obligations.InstanceOperationsNeedAFreeInstance : Prop :=
  ∀ (s : State) (i : Instr) (chip : Nat) (crcEn : Bool),
    (needsInstance i = true → s.live = false → exec i s = .refused .notLive) ∧
    (needsInstance i = true → s.live = true → s.busy = true →
      exec i s = .refused .instanceBusy) ∧
    (s.live = true → exec (.init chip crcEn) s = .refused .alreadyLive) ∧
    (s.live = false → s.busy = true → exec (.init chip crcEn) s = .refused .instanceBusy)

/-! ### The machine as a whole -/

/-- R20, R40, R96: one step takes the oldest command and runs what it stands for to completion: an
operation itself, the decoded frame, or for the fault callback one register read. Bytes that are no
frame are refused; with no command nothing happens (log 9). -/
def Obligations.StepRunsTheNextCommand : Prop :=
  ∀ (s : State) (c : Command) (rest : List Command), s.commands = c :: rest →
    (∀ i, c = .op i → step s = exec i { s with commands := rest }) ∧
    (∀ dir bytes i, c = .frame dir bytes → decodeFrame s.cfg dir bytes = .ok i →
      step s = exec i { s with commands := rest }) ∧
    (∀ dir bytes e, c = .frame dir bytes → decodeFrame s.cfg dir bytes = .error e →
      step s = .refused (.undecodable e)) ∧
    (∀ a, c = .callback a → step s = exec (.regRead (.direct a)) { s with commands := rest }) ∧
    step { s with commands := [] } = .next { s with commands := [] }

/-- R26, R114: before any INIT there is no instance: `LIVE` = 0, `BUSY` = 0, `PHASE` = IDLE, `CH_COUNT`
the family constant, no frame sent, nothing returned; and the invariant holds, for every choice of
valid parameters. -/
def Obligations.ResetHasNoInstanceAndMeetsTheInvariant : Prop :=
  ∀ (cfg : Config), cfg.Valid →
    (State.resetWith cfg).live = false ∧ (State.resetWith cfg).busy = false ∧
    (State.resetWith cfg).phase = .idle ∧ (State.resetWith cfg).chCount = cfg.chCount ∧
    (State.resetWith cfg).sent = [] ∧ (State.resetWith cfg).result = none ∧
    (State.resetWith cfg).Inv

/-- The invariant of Safety.lean (R8, R15, R17, R19, R20, R45, R51, R54; log 6, 7) is kept by every
step from every state that meets it. -/
def Obligations.StepKeepsTheInvariant : Prop :=
  ∀ (s t : State), s.Inv → step s = .next t → t.Inv

/-- R15, R16, R17, R18, D26: the parameters and `CH_COUNT` never change; `CHIP_ADDR` and `CRC_EN` do
not change while the instance lives; only INIT makes it live, and only TEARDOWN ends its life. -/
def Obligations.ConfigurationFixedWhileLive : Prop :=
  ∀ (i : Instr) (s t : State), exec i s = .next t →
    t.cfg = s.cfg ∧ t.chCount = s.chCount ∧ t.commands = s.commands ∧
    (s.live = true → t.live = true → t.chipAddr = s.chipAddr ∧ t.crcEn = s.crcEn) ∧
    (s.live = false → t.live = true → ∃ chip crcEn, i = .init chip crcEn) ∧
    (s.live = true → t.live = false → i = .teardown)

/-- R98, R107: whichever operation returns `InvalidArgument`, no exchange has been made and no state,
local or remote, has changed. -/
def Obligations.InvalidArgumentLeavesStateUnchanged : Prop :=
  ∀ (i : Instr) (s t : State), s.busy = false → s.phase = .idle → exec i s = .next t →
    t.result = some (.err .invalidArgument) →
    t = { s with result := some (.err .invalidArgument) }

/-- R100, R72: `IntegrityFailure` arises only on reads and only with CRC on: from REG.READ, DBG.READ,
REG.UPDATE, a 24-bit read frame, or INIT's handshake in CRC mode. -/
def Obligations.IntegrityFailureOnlyFromCheckedReads : Prop :=
  ∀ (i : Instr) (s t : State), exec i s = .next t → t.result = some (.err .integrityFailure) →
    (s.live = true ∧ s.crcEn = true ∧
      ((∃ op, i = .regRead op) ∨ (∃ op mask value, i = .regUpdate op mask value) ∨
        (∃ a, i = .dbgRead a) ∨ ∃ chip reg crc, i = .regrdF24 chip reg crc)) ∨
    (∃ chip crcEn, i = .init chip crcEn ∧ s.initMode crcEn = true ∧ s.cfg.faultRegs ≠ [])

/-- R97, R98, R99, R101: the table of error kinds. `OutOfMemory`: no instruction. `InvalidArgument`:
the operations that access the device, before any exchange, and DEC.RESP, which returns no other.
`TransportFailure`: only instructions that access the device, and only when their last exchange failed,
with the transport's own value. `IntegrityFailure`: no write (the rest of its row is
IntegrityFailureOnlyFromCheckedReads). So the CRC operations, the encoders and TEARDOWN return no error,
and neither do the response frames (log 15). That a request frame returns the errors of its operation
is the model's choice (log 13, 26). -/
def Obligations.ErrorKindsOfTheOperations : Prop :=
  ∀ (i : Instr) (s t : State), exec i s = .next t →
    t.result ≠ some (.err .outOfMemory) ∧
    (∀ k, t.result = some (.err k) →
      accessesDevice i = true ∨ (∃ f c, i = .decResp f c) ∧ k = .invalidArgument) ∧
    (t.result = some (.err .invalidArgument) → t.sent = s.sent) ∧
    (∀ e, t.result = some (.err (.transportFailure e)) →
      accessesDevice i = true ∧ ∃ n d, t.sent.length = s.sent.length + n + 1 ∧
        s.drawAt n = some d ∧ d.answer = .fail e) ∧
    ∀ op addr data chip reg crc,
      (i = .regWrite op data ∨ i = .dbgWrite addr data ∨ i = .regwrF16 chip reg data ∨
        i = .regwrF24 chip reg data crc) → t.result ≠ some (.err .integrityFailure)

/-- R13: what the frame buffer holds between operations is read by no operation: two states that
differ only in it behave alike under every instruction, and still differ in nothing else. -/
def Obligations.FrameBufferCarriesNothing : Prop :=
  ∀ (i : Instr) (s s' : State), SameButFrameBuffer s s' →
    (∀ t, exec i s = .next t → ∃ t', exec i s' = .next t' ∧ SameButFrameBuffer t t') ∧
    (∀ r, exec i s = .fault r → exec i s' = .fault r) ∧
    (∀ r, exec i s = .refused r → exec i s' = .refused r)

/-- R13, D18: with CRC off no operation writes `FB[2]`: neither one on an instance with `CRC_EN` = 0, nor
INIT when the mode it fixes is off, its handshake reads included, nor a pure operation in any state.
TEARDOWN is left out: afterwards `FB` is unspecified (R26; log 11). -/
def Obligations.ThirdBufferByteUntouchedWithCrcOff : Prop :=
  ∀ (i : Instr) (s t : State), i ≠ .teardown → (needsInstance i = true → s.crcEn = false) →
    (∀ chip crcEn, i = .init chip crcEn → s.initMode crcEn = false) → exec i s = .next t →
    t.fb.b2 = s.fb.b2

/-- R29, R40, R48, R54, R71, R72, R73, R78: the frames sent so far are never changed, and a register
operation adds its own and no others, with the chip address and the mode of the instance: a read the
read frame of its register, a write the write frame of its register and data, an update the read frame
and, if its read delivered a byte, the write frame of the combination with that byte. An operand that
stands for no valid register adds none. This holds whether the answers wait or are free values (log 3).
That the operations take the banked operand themselves is the model's choice (log 16). -/
def Obligations.OperationsSendOnlyTheirOwnFrames : Prop :=
  ∀ (i : Instr) (s t : State) (op : RegOperand) (data mask value : Byte), exec i s = .next t →
    (∀ k, operandAddress s.chCount op = .error k →
      (i = .regRead op ∨ i = .regWrite op data ∨ i = .regUpdate op mask value) → t.sent = s.sent) ∧
    ∀ reg, operandAddress s.chCount op = .ok reg →
      (s.cfg.regAddrMax < reg →
        (i = .regRead op ∨ i = .dbgRead reg ∨ i = .regWrite op data ∨ i = .dbgWrite reg data ∨
          i = .regUpdate op mask value) → t.sent = s.sent) ∧
      (reg ≤ s.cfg.regAddrMax →
        ((i = .regRead op ∨ i = .dbgRead reg) →
          t.sent = s.sent ++ [encRead s.cfg s.chipAddr reg s.crcEn]) ∧
        ((i = .regWrite op data ∨ i = .dbgWrite reg data) →
          t.sent = s.sent ++ [encWrite s.cfg s.chipAddr reg data s.crcEn]) ∧
        (i = .regUpdate op mask value → ∃ d, s.drawAt 0 = some d ∧
          (∀ old, readResult s.cfg s.crcEn d.answer = .ok (.byte old) →
            t.sent = s.sent ++ [encRead s.cfg s.chipAddr reg s.crcEn,
              encWrite s.cfg s.chipAddr reg ((old &&& ~~~mask) ||| (value &&& mask)) s.crcEn]) ∧
          (∀ k, readResult s.cfg s.crcEn d.answer = .err k →
            t.sent = s.sent ++ [encRead s.cfg s.chipAddr reg s.crcEn])))

/-- R29, R40, R45, R78: whatever the instruction, the frames sent so far are never changed, and every
frame it adds carries the chip address of the instance and has the length of its mode: those INIT fixes
for INIT's own reads, else those the instance has. Request frames are among the instructions (log
13). -/
def Obligations.EveryFrameCarriesTheInstancesChipAddress : Prop :=
  ∀ (i : Instr) (s t : State) (chip : Nat) (mode : Bool), s.cfg.Valid →
    (s.live = true → chipFits s.cfg s.chipAddr = true) →
    ((∃ crcEn, i = .init chip crcEn ∧ mode = s.initMode crcEn) ∨
      (∀ c crcEn, i ≠ .init c crcEn) ∧ chip = s.chipAddr ∧ mode = s.crcEn) →
    exec i s = .next t →
    ∃ fs, t.sent = s.sent ++ fs ∧
      ∀ f ∈ fs, (splitCtrl s.cfg (f.getD 0 0)).chip = chip ∧ f.length = flen mode

/-- R128, U18: on a transport that answers every exchange, every well-formed instruction completes:
operations on a live, free instance, request frames on one of their chip address and mode, INIT without
one, the pure functions in every state. Where the script is used up the answers are free values, and
the operation completes whatever they are. That a free answer always returns is the assumption R128 asks
a model to state (log 5); what executing a request frame means is the model's choice (log 13). -/
def Obligations.OperationsCompleteWhenTheTransportAnswers : Prop :=
  ∀ (i : Instr) (s : State), s.AlwaysAnswers → i.wellFormed s.cfg = true →
    (needsInstance i = true → s.Ready) →
    (∀ chip crcEn, i = .init chip crcEn → s.live = false ∧ s.busy = false) →
    (∀ chip reg data crc, (i = .regwrF16 chip reg data ∨ i = .regrdF16 chip reg ∨
      i = .regwrF24 chip reg data crc ∨ i = .regrdF24 chip reg crc) → chip = s.chipAddr) →
    (∀ f, encode s.cfg i = some f → i.dir = .outbound → f.length = flen s.crcEn) →
    ∃ t, exec i s = .next t

/-- U18, R128: an operation sticks only on an exchange that the transport never answers, and a read that
meets one sticks. That such an exchange stands in the script, the free answers after it always
returning, is the model's assumption (log 5). -/
def Obligations.StuckOnlyOnAnUnansweredExchange : Prop :=
  (∀ (i : Instr) (s : State) (r : Fault), exec i s = .fault r →
    r = .exchangeNeverReturned ∧ Exchange.never ∈ s.script) ∧
  ∀ (s : State) (op : RegOperand) (reg : Nat) (rest : List Exchange), s.Ready →
    operandAddress s.chCount op = .ok reg → reg ≤ s.cfg.regAddrMax → s.script = .never :: rest →
    exec (.regRead op) s = .fault .exchangeNeverReturned

/-! ### Host sequences (43_client_policy.md, context; log 22) -/

/-- R85, R86, R88, S4: selecting a delay of the table writes its index, and reading the field back
gives the delay, whatever else the register held; a value not in the table, and a channel out of
range, are rejected with no operation issued. For a field of 3 bits, which the spec does not promise
(R86). -/
def Obligations.DelaySelectReadsBack : Prop :=
  ∀ (m : HostMap) (chCount ch : Nat),
    (ch < chCount → m.fdlyOff ch ≤ 5 → m.fdlyMask ch = 0x07#8 <<< m.fdlyOff ch →
      ∀ (k : Nat) (v : Nat), delayTable[k]? = some v → ∃ code,
        setDelay m chCount ch v =
          .ok [.regUpdate (.direct (m.fdlyReg ch)) (m.fdlyMask ch) code] ∧
        ∀ old, delayOf m ch (maskedUpdate old (m.fdlyMask ch) code) = some v) ∧
    (∀ v, v ∉ delayTable → setDelay m chCount ch v = .error .invalidArgument) ∧
    (∀ v, chCount ≤ ch → setDelay m chCount ch v = .error .invalidArgument)

/-- R81, R83, R106, R108, R121, R122: the clamp goes first when switching to high impedance; a counter
is stopped, written low byte then high byte, and resumed; and a sequence ends with its first failing
operation, nothing undone. -/
def Obligations.HostSequencesKeepTheirOrder : Prop :=
  (∀ (m : HostMap) (chCount ch : Nat) (f : Byte), ch < chCount → f ∈ m.funcHiz →
    setFunction m chCount ch f =
      .ok [.regUpdate (.direct (m.clampReg ch)) (m.clampMask ch) m.clampPp,
        .regUpdate (.direct (m.funcReg ch)) (m.funcMask ch)
          ((f <<< m.funcOff ch) &&& m.funcMask ch)]) ∧
  (∀ (m : HostMap) (chCount ch : Nat) (v : BitVec 16), ch < chCount →
    setCounter m chCount ch v =
      .ok [.regUpdate (.direct (m.cntEnReg ch)) (m.cntEnMask ch) m.cntStop,
        .regWrite (.direct (m.cntLoReg ch)) (v.setWidth 8),
        .regWrite (.direct (m.cntHiReg ch)) ((v >>> 8).setWidth 8),
        .regUpdate (.direct (m.cntEnReg ch)) (m.cntEnMask ch) (m.cntStop ^^^ m.cntEnMask ch)]) ∧
  (∀ (i : Instr) (rest : List Instr) (s t : State), exec i s = .next t →
    ((∃ k, t.result = some (.err k)) → runSequence (i :: rest) s = .next t) ∧
    ((∀ k, t.result ≠ some (.err k)) → runSequence (i :: rest) s = runSequence rest t))

/-- R98: over a map whose registers the device has, no sequence of the policy layer ends in
`InvalidArgument`: what the layer checks it checks before the first operation, and nothing of the kind
comes up partway. The condition on the map is the model's (log 30). -/
def Obligations.ValidMapNeverRejectsPartway : Prop :=
  ∀ (m : HostMap) (s t : State) (ch v : Nat) (f k : Byte) (w : BitVec 16) (b : Bool)
    (seq : List Instr), m.Valid s.cfg s.chCount →
    (setFunction m s.chCount ch f = .ok seq ∨ setCurrentLimit m s.chCount ch k = .ok seq ∨
      getCurrentLimit m s.chCount ch = .ok seq ∨ setCounter m s.chCount ch w = .ok seq ∨
      setFilterBypass m s.chCount ch b = .ok seq ∨ setDelay m s.chCount ch v = .ok seq ∨
      getDelay m s.chCount ch = .ok seq) →
    runSequence seq s = .next t → t.result ≠ some (.err .invalidArgument)

/-- R86, R89, R90: a show reads the register of its field once and renders the field as a decimal
integer, a field that holds a table index as the table's value there (any integer for an index outside,
which R86 leaves open: log 29), or returns the read's error; an available-values show renders the table,
one space after every element, with no exchange; a channel out of range is rejected with no exchange. A
shared attribute ignores the channel; that it then acts on channel 0 is the model's choice (log 29). -/
def Obligations.ShowRendersWhatTheReadReturns : Prop :=
  ∀ (s : State) (a : Attribute) (source : Nat → ShowSource) (ch : Nat), a.shows = some source →
    (∀ c, (a.shared = false ∧ ch < s.chCount ∧ c = ch ∨ a.shared = true ∧ c = 0) →
      (∀ reg mask off t, source c = .field reg mask off → exec (.regRead (.direct reg)) s = .next t →
        (∀ v : Byte, t.result = some (.ok (.byte v)) →
          showAttribute a ch s =
            some (.next (t, some (.ok (toString ((v &&& mask) >>> off).toNat))))) ∧
        (∀ k, t.result = some (.err k) →
          showAttribute a ch s = some (.next (t, some (.error k))))) ∧
      (∀ reg mask off table t, source c = .indexed reg mask off table →
        exec (.regRead (.direct reg)) s = .next t →
        (∀ v : Byte, t.result = some (.ok (.byte v)) →
          (∀ n, table[((v &&& mask) >>> off).toNat]? = some n →
            showAttribute a ch s = some (.next (t, some (.ok (toString n))))) ∧
          ∃ n : Nat, showAttribute a ch s = some (.next (t, some (.ok (toString n))))) ∧
        (∀ k, t.result = some (.err k) →
          showAttribute a ch s = some (.next (t, some (.error k))))) ∧
      (∀ table, source c = .available table →
        showAttribute a ch s =
          some (.next (s, some (.ok (String.join (table.map fun v => toString v ++ " "))))))) ∧
    (a.shared = false → s.chCount ≤ ch →
      showAttribute a ch s = some (.next (s, some (.error .invalidArgument)))) ∧
    (a.shared = true → ∀ ch', showAttribute a ch' s = showAttribute a ch s)

/-- R81 to R85, R89, R91: a string that is no integer and a channel out of range are `InvalidArgument`
with no operation issued. An integer in the range of its target is forwarded to the policy operation: a
function code and a current-limit code that the field keeps whole, the latter one of the codes; a
counter value of 16 bits; 0 or 1 for the bypass; a delay of the table. Any other is `InvalidArgument`
with no operation issued. What parses a string is an argument; the ranges, that 1 sets the bypass bit,
and that a shared attribute acts on channel 0 are the model's choice (log 29). -/
def Obligations.StoreForwardsOrRejects : Prop :=
  ∀ (parse : String → Option Int) (m : HostMap) (chCount ch : Nat) (a : Attribute)
    (target : StoreTarget) (text : String), a.stores = some target →
    let Gives (r : Except ErrorKind (List Instr)) : Prop :=
      storeAttribute parse m chCount a ch text = some r
    let Keeps (code : Byte) (off : Nat) (mask : Byte) : Prop :=
      (((code <<< off) &&& mask) &&& mask) >>> off = code
    (parse text = none → Gives (.error .invalidArgument)) ∧
    (a.shared = false → chCount ≤ ch → Gives (.error .invalidArgument)) ∧
    ∀ (c : Nat) (v : Int),
      (a.shared = false ∧ ch < chCount ∧ c = ch ∨ a.shared = true ∧ 0 < chCount ∧ c = 0) →
      parse text = some v →
      (target = .function →
        (∀ code : Byte, v = (code.toNat : Int) → Keeps code (m.funcOff c) (m.funcMask c) →
          Gives (setFunction m chCount c code)) ∧
        ((∀ code : Byte, v = (code.toNat : Int) → ¬Keeps code (m.funcOff c) (m.funcMask c)) →
          Gives (.error .invalidArgument))) ∧
      (target = .currentLimit →
        (∀ code : Byte, v = (code.toNat : Int) → Keeps code (m.clOff c) (m.clMask c) →
          code ∈ m.clCodes →
          Gives (.ok [.regUpdate (.direct (m.clReg c)) (m.clMask c)
            ((code <<< m.clOff c) &&& m.clMask c)])) ∧
        ((∀ code : Byte, v = (code.toNat : Int) →
            ¬(Keeps code (m.clOff c) (m.clMask c) ∧ code ∈ m.clCodes)) →
          Gives (.error .invalidArgument))) ∧
      (target = .counter →
        (∀ w : BitVec 16, v = (w.toNat : Int) → Gives (setCounter m chCount c w)) ∧
        (v < 0 ∨ 0x10000 ≤ v → Gives (.error .invalidArgument))) ∧
      (target = .filterBypass →
        (v = 0 → Gives (.ok [.regUpdate (.direct (m.fbpReg c)) (m.fbpMask c) 0x00])) ∧
        (v = 1 → Gives (.ok [.regUpdate (.direct (m.fbpReg c)) (m.fbpMask c) (m.fbpMask c)])) ∧
        (v ≠ 0 → v ≠ 1 → Gives (.error .invalidArgument))) ∧
      (target = .filterDelay →
        (∀ i n : Nat, delayTable[i]? = some n → v = (n : Int) →
          Gives (.ok [.regUpdate (.direct (m.fdlyReg c)) (m.fdlyMask c)
            ((BitVec.ofNat 8 i <<< m.fdlyOff c) &&& m.fdlyMask c)])) ∧
        ((∀ n ∈ delayTable, v ≠ (n : Int)) → Gives (.error .invalidArgument)))

/-- R92, R97, R101: set-up gives one descriptor for each enabled channel below the fixed maximum, in
order, each bound to the one catalogue; where they cannot be allocated it is `OutOfMemory`. -/
def Obligations.SetupBindsTheEnabledChannels : Prop :=
  ∀ (chCount : Nat) (enabled : List Nat) (catalogue : List Attribute) (allocates : Nat → Bool),
    let channels := (List.range chCount).filter (fun ch => decide (ch ∈ enabled))
    (allocates channels.length = true → ∃ ds,
      setupChannels chCount enabled catalogue allocates = .ok ds ∧
        ds.map (·.channel) = channels ∧ ∀ d ∈ ds, d.catalogue = catalogue) ∧
    (allocates channels.length = false →
      setupChannels chCount enabled catalogue allocates = .error .outOfMemory)
end

