-- ==== Sys2Proof/Laws/Memory.lean ====
section
/-! SUPPORT. The remote registers and the latches: read after write, and the canonical form kept by
every operation. -/

namespace Sys2Proof.Machine

/-! ### Registers -/

@[simp] theorem memoryRead_nil (a : Nat) : memoryRead [] a = none := rfl

theorem memoryRead_write_same (m : List Host.Cell) (a : Nat) (v : Byte) :
    memoryRead (memoryWrite m a v) a = some v := by
  induction m with
  | nil => simp [memoryWrite, memoryRead]
  | cons c rest ih =>
    obtain ⟨k, w⟩ := c
    simp only [memoryWrite]
    split
    · simp [memoryRead]
    · split
      · simp [memoryRead]
      · have hk : k ≠ a := fun h => ‹¬a = k› h.symm
        simpa [memoryRead, hk] using ih

theorem memoryRead_write_other (m : List Host.Cell) {a b : Nat} (v : Byte) (h : b ≠ a) :
    memoryRead (memoryWrite m a v) b = memoryRead m b := by
  induction m with
  | nil => simp [memoryWrite, memoryRead, Ne.symm h]
  | cons c rest ih =>
    obtain ⟨k, w⟩ := c
    simp only [memoryWrite]
    split
    · simp [memoryRead, Ne.symm h]
    · split
      · have : a = k := ‹a = k›
        subst this
        simp [memoryRead, Ne.symm h]
      · simp [memoryRead, ih]

/-- The keys of a memory after a write. -/
theorem mem_memoryWrite {m : List Host.Cell} {a : Nat} {v : Byte} {x : Host.Cell}
    (h : x ∈ memoryWrite m a v) : x = (a, v) ∨ x ∈ m := by
  induction m with
  | nil => simpa [memoryWrite] using h
  | cons c rest ih =>
    obtain ⟨k, w⟩ := c
    simp only [memoryWrite] at h
    split at h
    · simpa using h
    · split at h
      · rcases List.mem_cons.mp h with h | h
        · exact .inl h
        · exact .inr (List.mem_cons_of_mem _ h)
      · rcases List.mem_cons.mp h with h | h
        · exact .inr (h ▸ List.mem_cons_self)
        · rcases ih h with h | h
          · exact .inl h
          · exact .inr (List.mem_cons_of_mem _ h)

theorem memoryWrite_rising {m : List Host.Cell} (a : Nat) (v : Byte)
    (h : m.Pairwise fun x y => x.1 < y.1) : (memoryWrite m a v).Pairwise fun x y => x.1 < y.1 := by
  induction m with
  | nil => simp [memoryWrite]
  | cons c rest ih =>
    obtain ⟨k, w⟩ := c
    obtain ⟨hk, hrest⟩ := List.pairwise_cons.mp h
    simp only [memoryWrite]
    split
    · rename_i hak
      refine List.pairwise_cons.mpr ⟨fun y hy => ?_, h⟩
      rcases List.mem_cons.mp hy with rfl | hy
      · exact hak
      · exact Nat.lt_trans hak (hk y hy)
    · split
      · rename_i hak
        exact List.pairwise_cons.mpr ⟨fun y hy => hak ▸ hk y hy, hrest⟩
      · refine List.pairwise_cons.mpr ⟨fun y hy => ?_, ih hrest⟩
        rcases mem_memoryWrite hy with rfl | hy
        · show k < a
          omega
        · exact hk y hy

/-- A write keeps the canonical form. -/
theorem memoryWf_write {m : List Host.Cell} {a : Nat} (v : Byte) (ha : a < 128) (h : memoryWf m) :
    memoryWf (memoryWrite m a v) := by
  refine ⟨memoryWrite_rising a v h.1, fun x hx => ?_⟩
  rcases mem_memoryWrite hx with rfl | hx
  · exact ha
  · exact h.2 x hx

/-- The device's own changes keep the canonical form. -/
theorem memoryWf_change {m : List Host.Cell} (cs : List (LinkAddr × Byte)) (h : memoryWf m) :
    memoryWf (memoryChange m cs) := by
  induction cs generalizing m with
  | nil => exact h
  | cons c rest ih => exact ih (memoryWf_write c.2 c.1.isLt h)

/-- An exchange keeps the canonical form of the remote registers. -/
theorem memoryWf_remoteAfter {m : List Host.Cell} (own : Bool) (c w : Byte) (d : Draw)
    (h : memoryWf m) : memoryWf (remoteAfter m own c w d) := by
  have h' := memoryWf_change d.drift h
  simp only [remoteAfter]
  split
  · split
    · exact memoryWf_write w (linkAddr c).isLt h'
    · exact memoryWf_change d.readEffect h'
  · exact h'

/-! ### Latches -/

theorem mem_latchSet {l : List Nat} {a x : Nat} : x ∈ latchSet l a ↔ x = a ∨ x ∈ l := by
  induction l with
  | nil => simp [latchSet]
  | cons k rest ih =>
    simp only [latchSet]
    split
    · simp
    · split
      · rename_i h
        subst h
        simp
      · simp only [List.mem_cons, ih]
        tauto

theorem latchSet_rising {l : List Nat} (a : Nat) (h : l.Pairwise (· < ·)) :
    (latchSet l a).Pairwise (· < ·) := by
  induction l with
  | nil => simp [latchSet]
  | cons k rest ih =>
    obtain ⟨hk, hrest⟩ := List.pairwise_cons.mp h
    simp only [latchSet]
    split
    · rename_i hak
      refine List.pairwise_cons.mpr ⟨fun y hy => ?_, h⟩
      rcases List.mem_cons.mp hy with rfl | hy
      · exact hak
      · exact Nat.lt_trans hak (hk y hy)
    · split
      · exact h
      · refine List.pairwise_cons.mpr ⟨fun y hy => ?_, ih hrest⟩
        rcases mem_latchSet.mp hy with rfl | hy
        · omega
        · exact hk y hy

theorem latchesWf_set {l : List Nat} {a : Nat} (ha : a < 128) (h : latchesWf l) :
    latchesWf (latchSet l a) := by
  refine ⟨latchSet_rising a h.1, fun x hx => ?_⟩
  rcases mem_latchSet.mp hx with rfl | hx
  · exact ha
  · exact h.2 x hx

theorem latchesWf_setAll {l : List Nat} (as : List LinkAddr) (h : latchesWf l) :
    latchesWf (latchSetAll l as) := by
  induction as generalizing l with
  | nil => exact h
  | cons a rest ih => exact ih (latchesWf_set a.isLt h)

theorem mem_latchSetAll {l : List Nat} {as : List LinkAddr} {x : Nat} :
    x ∈ latchSetAll l as ↔ x ∈ l ∨ ∃ a ∈ as, x = a.toNat := by
  induction as generalizing l with
  | nil => simp [latchSetAll]
  | cons a rest ih =>
    simp only [latchSetAll, ih, mem_latchSet, List.exists_mem_cons_iff]
    tauto

@[simp] theorem mem_latchClear {l : List Nat} {a x : Nat} : x ∈ latchClear l a ↔ x ∈ l ∧ x ≠ a := by
  simp [latchClear]

theorem latchesWf_clear {l : List Nat} (a : Nat) (h : latchesWf l) : latchesWf (latchClear l a) :=
  ⟨h.1.filter _, fun x hx => h.2 x (mem_latchClear.mp hx).1⟩

/-- An exchange keeps the canonical form of the latches. -/
theorem latchesWf_latchedAfter {l : List Nat} (own : Bool) (c : Byte) (d : Draw) (h : latchesWf l) :
    latchesWf (latchedAfter l own c d) := by
  have h' := latchesWf_setAll d.latch h
  simp only [latchedAfter]
  split
  · exact latchesWf_clear _ h'
  · exact h'

end Sys2Proof.Machine
end

