-- ==== Sys2Proof/Laws/State.lean ====
section
/-! SUPPORT. One lemma per field per update of State, true by `rfl`, so that no later proof unfolds a
record update. -/

namespace Sys2Proof.Machine

variable (s : State)

/-! ### State.raise -/

@[simp] theorem State.raise_cfg (k : ErrorKind) : (s.raise k).cfg = s.cfg := rfl
@[simp] theorem State.raise_fb (k : ErrorKind) : (s.raise k).fb = s.fb := rfl
@[simp] theorem State.raise_chipAddr (k : ErrorKind) : (s.raise k).chipAddr = s.chipAddr := rfl
@[simp] theorem State.raise_crcEn (k : ErrorKind) : (s.raise k).crcEn = s.crcEn := rfl
@[simp] theorem State.raise_chCount (k : ErrorKind) : (s.raise k).chCount = s.chCount := rfl
@[simp] theorem State.raise_live (k : ErrorKind) : (s.raise k).live = s.live := rfl
@[simp] theorem State.raise_busy (k : ErrorKind) : (s.raise k).busy = false := rfl
@[simp] theorem State.raise_phase (k : ErrorKind) : (s.raise k).phase = .idle := rfl
@[simp] theorem State.raise_result (k : ErrorKind) : (s.raise k).result = some (.err k) := rfl
@[simp] theorem State.raise_remote (k : ErrorKind) : (s.raise k).remote = s.remote := rfl
@[simp] theorem State.raise_latched (k : ErrorKind) : (s.raise k).latched = s.latched := rfl
@[simp] theorem State.raise_commands (k : ErrorKind) : (s.raise k).commands = s.commands := rfl
@[simp] theorem State.raise_script (k : ErrorKind) : (s.raise k).script = s.script := rfl
@[simp] theorem State.raise_straps (k : ErrorKind) : (s.raise k).straps = s.straps := rfl
@[simp] theorem State.raise_sent (k : ErrorKind) : (s.raise k).sent = s.sent := rfl
@[simp] theorem State.raise_gpioReads (k : ErrorKind) : (s.raise k).gpioReads = s.gpioReads := rfl
@[simp] theorem State.raise_frees (k : ErrorKind) : (s.raise k).frees = s.frees := rfl

/-! ### State.returnOk -/

@[simp] theorem State.returnOk_cfg (v : Value) : (s.returnOk v).cfg = s.cfg := rfl
@[simp] theorem State.returnOk_fb (v : Value) : (s.returnOk v).fb = s.fb := rfl
@[simp] theorem State.returnOk_chipAddr (v : Value) : (s.returnOk v).chipAddr = s.chipAddr := rfl
@[simp] theorem State.returnOk_crcEn (v : Value) : (s.returnOk v).crcEn = s.crcEn := rfl
@[simp] theorem State.returnOk_chCount (v : Value) : (s.returnOk v).chCount = s.chCount := rfl
@[simp] theorem State.returnOk_live (v : Value) : (s.returnOk v).live = s.live := rfl
@[simp] theorem State.returnOk_busy (v : Value) : (s.returnOk v).busy = false := rfl
@[simp] theorem State.returnOk_phase (v : Value) : (s.returnOk v).phase = .idle := rfl
@[simp] theorem State.returnOk_result (v : Value) : (s.returnOk v).result = some (.ok v) := rfl
@[simp] theorem State.returnOk_remote (v : Value) : (s.returnOk v).remote = s.remote := rfl
@[simp] theorem State.returnOk_latched (v : Value) : (s.returnOk v).latched = s.latched := rfl
@[simp] theorem State.returnOk_commands (v : Value) : (s.returnOk v).commands = s.commands := rfl
@[simp] theorem State.returnOk_script (v : Value) : (s.returnOk v).script = s.script := rfl
@[simp] theorem State.returnOk_straps (v : Value) : (s.returnOk v).straps = s.straps := rfl
@[simp] theorem State.returnOk_sent (v : Value) : (s.returnOk v).sent = s.sent := rfl
@[simp] theorem State.returnOk_gpioReads (v : Value) : (s.returnOk v).gpioReads = s.gpioReads := rfl
@[simp] theorem State.returnOk_frees (v : Value) : (s.returnOk v).frees = s.frees := rfl

/-! ### State.answerPure -/

@[simp] theorem State.answerPure_cfg (r : Result) : (s.answerPure r).cfg = s.cfg := rfl
@[simp] theorem State.answerPure_fb (r : Result) : (s.answerPure r).fb = s.fb := rfl
@[simp] theorem State.answerPure_chipAddr (r : Result) : (s.answerPure r).chipAddr = s.chipAddr := rfl
@[simp] theorem State.answerPure_crcEn (r : Result) : (s.answerPure r).crcEn = s.crcEn := rfl
@[simp] theorem State.answerPure_chCount (r : Result) : (s.answerPure r).chCount = s.chCount := rfl
@[simp] theorem State.answerPure_live (r : Result) : (s.answerPure r).live = s.live := rfl
@[simp] theorem State.answerPure_busy (r : Result) : (s.answerPure r).busy = s.busy := rfl
@[simp] theorem State.answerPure_phase (r : Result) : (s.answerPure r).phase = s.phase := rfl
@[simp] theorem State.answerPure_result (r : Result) : (s.answerPure r).result = some r := rfl
@[simp] theorem State.answerPure_remote (r : Result) : (s.answerPure r).remote = s.remote := rfl
@[simp] theorem State.answerPure_latched (r : Result) : (s.answerPure r).latched = s.latched := rfl
@[simp] theorem State.answerPure_commands (r : Result) : (s.answerPure r).commands = s.commands := rfl
@[simp] theorem State.answerPure_script (r : Result) : (s.answerPure r).script = s.script := rfl
@[simp] theorem State.answerPure_straps (r : Result) : (s.answerPure r).straps = s.straps := rfl
@[simp] theorem State.answerPure_sent (r : Result) : (s.answerPure r).sent = s.sent := rfl
@[simp] theorem State.answerPure_gpioReads (r : Result) : (s.answerPure r).gpioReads = s.gpioReads := rfl
@[simp] theorem State.answerPure_frees (r : Result) : (s.answerPure r).frees = s.frees := rfl

/-! ### State.load -/

@[simp] theorem State.load_cfg (src : FrameBuffer) : (s.load src).cfg = s.cfg := rfl
@[simp] theorem State.load_fb (src : FrameBuffer) : (s.load src).fb = fbStore s.fb src s.crcEn := rfl
@[simp] theorem State.load_chipAddr (src : FrameBuffer) : (s.load src).chipAddr = s.chipAddr := rfl
@[simp] theorem State.load_crcEn (src : FrameBuffer) : (s.load src).crcEn = s.crcEn := rfl
@[simp] theorem State.load_chCount (src : FrameBuffer) : (s.load src).chCount = s.chCount := rfl
@[simp] theorem State.load_live (src : FrameBuffer) : (s.load src).live = s.live := rfl
@[simp] theorem State.load_busy (src : FrameBuffer) : (s.load src).busy = s.busy := rfl
@[simp] theorem State.load_phase (src : FrameBuffer) : (s.load src).phase = .encode := rfl
@[simp] theorem State.load_result (src : FrameBuffer) : (s.load src).result = s.result := rfl
@[simp] theorem State.load_remote (src : FrameBuffer) : (s.load src).remote = s.remote := rfl
@[simp] theorem State.load_latched (src : FrameBuffer) : (s.load src).latched = s.latched := rfl
@[simp] theorem State.load_commands (src : FrameBuffer) : (s.load src).commands = s.commands := rfl
@[simp] theorem State.load_script (src : FrameBuffer) : (s.load src).script = s.script := rfl
@[simp] theorem State.load_straps (src : FrameBuffer) : (s.load src).straps = s.straps := rfl
@[simp] theorem State.load_sent (src : FrameBuffer) : (s.load src).sent = s.sent := rfl
@[simp] theorem State.load_gpioReads (src : FrameBuffer) : (s.load src).gpioReads = s.gpioReads := rfl
@[simp] theorem State.load_frees (src : FrameBuffer) : (s.load src).frees = s.frees := rfl

/-! ### State.dissolve -/

@[simp] theorem State.dissolve_cfg : (s.dissolve).cfg = s.cfg := rfl
@[simp] theorem State.dissolve_fb : (s.dissolve).fb = s.fb := rfl
@[simp] theorem State.dissolve_chipAddr : (s.dissolve).chipAddr = (Config.freeInstance s.frees).chipAddr := rfl
@[simp] theorem State.dissolve_crcEn : (s.dissolve).crcEn = (Config.freeInstance s.frees).crcEn := rfl
@[simp] theorem State.dissolve_chCount : (s.dissolve).chCount = s.chCount := rfl
@[simp] theorem State.dissolve_live : (s.dissolve).live = false := rfl
@[simp] theorem State.dissolve_busy : (s.dissolve).busy = s.busy := rfl
@[simp] theorem State.dissolve_phase : (s.dissolve).phase = s.phase := rfl
@[simp] theorem State.dissolve_result : (s.dissolve).result = s.result := rfl
@[simp] theorem State.dissolve_remote : (s.dissolve).remote = s.remote := rfl
@[simp] theorem State.dissolve_latched : (s.dissolve).latched = s.latched := rfl
@[simp] theorem State.dissolve_commands : (s.dissolve).commands = s.commands := rfl
@[simp] theorem State.dissolve_script : (s.dissolve).script = s.script := rfl
@[simp] theorem State.dissolve_straps : (s.dissolve).straps = s.straps := rfl
@[simp] theorem State.dissolve_sent : (s.dissolve).sent = s.sent := rfl
@[simp] theorem State.dissolve_gpioReads : (s.dissolve).gpioReads = s.gpioReads := rfl
@[simp] theorem State.dissolve_frees : (s.dissolve).frees = s.frees + 1 := rfl

/-! ### State.afterGpioRead -/

@[simp] theorem State.afterGpioRead_cfg : (s.afterGpioRead).cfg = s.cfg := rfl
@[simp] theorem State.afterGpioRead_fb : (s.afterGpioRead).fb = s.fb := rfl
@[simp] theorem State.afterGpioRead_chipAddr : (s.afterGpioRead).chipAddr = s.chipAddr := rfl
@[simp] theorem State.afterGpioRead_crcEn : (s.afterGpioRead).crcEn = s.crcEn := rfl
@[simp] theorem State.afterGpioRead_chCount : (s.afterGpioRead).chCount = s.chCount := rfl
@[simp] theorem State.afterGpioRead_live : (s.afterGpioRead).live = s.live := rfl
@[simp] theorem State.afterGpioRead_busy : (s.afterGpioRead).busy = s.busy := rfl
@[simp] theorem State.afterGpioRead_phase : (s.afterGpioRead).phase = s.phase := rfl
@[simp] theorem State.afterGpioRead_result : (s.afterGpioRead).result = s.result := rfl
@[simp] theorem State.afterGpioRead_remote : (s.afterGpioRead).remote = s.remote := rfl
@[simp] theorem State.afterGpioRead_latched : (s.afterGpioRead).latched = s.latched := rfl
@[simp] theorem State.afterGpioRead_commands : (s.afterGpioRead).commands = s.commands := rfl
@[simp] theorem State.afterGpioRead_script : (s.afterGpioRead).script = s.script := rfl
@[simp] theorem State.afterGpioRead_straps : (s.afterGpioRead).straps = s.straps.tail := rfl
@[simp] theorem State.afterGpioRead_sent : (s.afterGpioRead).sent = s.sent := rfl
@[simp] theorem State.afterGpioRead_gpioReads : (s.afterGpioRead).gpioReads = s.gpioReads + 1 := rfl
@[simp] theorem State.afterGpioRead_frees : (s.afterGpioRead).frees = s.frees := rfl

/-! ### State.asSender -/

@[simp] theorem State.asSender_cfg (chip : Nat) (c : Bool) : (s.asSender chip c).cfg = s.cfg := rfl
@[simp] theorem State.asSender_fb (chip : Nat) (c : Bool) : (s.asSender chip c).fb = s.fb := rfl
@[simp] theorem State.asSender_chipAddr (chip : Nat) (c : Bool) : (s.asSender chip c).chipAddr = chip := rfl
@[simp] theorem State.asSender_crcEn (chip : Nat) (c : Bool) : (s.asSender chip c).crcEn = c := rfl
@[simp] theorem State.asSender_chCount (chip : Nat) (c : Bool) : (s.asSender chip c).chCount = s.chCount := rfl
@[simp] theorem State.asSender_live (chip : Nat) (c : Bool) : (s.asSender chip c).live = true := rfl
@[simp] theorem State.asSender_busy (chip : Nat) (c : Bool) : (s.asSender chip c).busy = false := rfl
@[simp] theorem State.asSender_phase (chip : Nat) (c : Bool) : (s.asSender chip c).phase = s.phase := rfl
@[simp] theorem State.asSender_result (chip : Nat) (c : Bool) : (s.asSender chip c).result = s.result := rfl
@[simp] theorem State.asSender_remote (chip : Nat) (c : Bool) : (s.asSender chip c).remote = s.remote := rfl
@[simp] theorem State.asSender_latched (chip : Nat) (c : Bool) : (s.asSender chip c).latched = s.latched := rfl
@[simp] theorem State.asSender_commands (chip : Nat) (c : Bool) : (s.asSender chip c).commands = s.commands := rfl
@[simp] theorem State.asSender_script (chip : Nat) (c : Bool) : (s.asSender chip c).script = s.script := rfl
@[simp] theorem State.asSender_straps (chip : Nat) (c : Bool) : (s.asSender chip c).straps = s.straps := rfl
@[simp] theorem State.asSender_sent (chip : Nat) (c : Bool) : (s.asSender chip c).sent = s.sent := rfl
@[simp] theorem State.asSender_gpioReads (chip : Nat) (c : Bool) : (s.asSender chip c).gpioReads = s.gpioReads := rfl
@[simp] theorem State.asSender_frees (chip : Nat) (c : Bool) : (s.asSender chip c).frees = s.frees := rfl

/-! ### State.complete: `raise` or `return` -/

@[simp] theorem State.complete_ok (v : Value) : s.complete (.ok v) = s.returnOk v := rfl
@[simp] theorem State.complete_error (k : ErrorKind) : s.complete (.error k) = s.raise k := rfl

variable (r : Except ErrorKind Value)

@[simp] theorem State.complete_cfg : (s.complete r).cfg = s.cfg := rfl
@[simp] theorem State.complete_fb : (s.complete r).fb = s.fb := rfl
@[simp] theorem State.complete_chipAddr : (s.complete r).chipAddr = s.chipAddr := rfl
@[simp] theorem State.complete_crcEn : (s.complete r).crcEn = s.crcEn := rfl
@[simp] theorem State.complete_chCount : (s.complete r).chCount = s.chCount := rfl
@[simp] theorem State.complete_live : (s.complete r).live = s.live := rfl
@[simp] theorem State.complete_busy : (s.complete r).busy = false := rfl
@[simp] theorem State.complete_phase : (s.complete r).phase = .idle := rfl
@[simp] theorem State.complete_result : (s.complete r).result = some (resultOf r) := rfl
@[simp] theorem State.complete_remote : (s.complete r).remote = s.remote := rfl
@[simp] theorem State.complete_latched : (s.complete r).latched = s.latched := rfl
@[simp] theorem State.complete_commands : (s.complete r).commands = s.commands := rfl
@[simp] theorem State.complete_script : (s.complete r).script = s.script := rfl
@[simp] theorem State.complete_straps : (s.complete r).straps = s.straps := rfl
@[simp] theorem State.complete_sent : (s.complete r).sent = s.sent := rfl
@[simp] theorem State.complete_gpioReads : (s.complete r).gpioReads = s.gpioReads := rfl
@[simp] theorem State.complete_frees : (s.complete r).frees = s.frees := rfl

/-- A completion writes nothing but `PHASE`, `BUSY` and the result. -/
theorem State.complete_eq :
    s.complete r = { s with phase := .idle, busy := false, result := some (resultOf r) } := rfl

end Sys2Proof.Machine
end

