-- ==== Sys2Proof/Laws/Access.lean ====
section
/-! SUPPORT. What the shared operations can do, said once: the exchange, one register read, one
register write, the entry and exit of an operation on an instance. Later proofs cite these lemmas and
unfold none of the operations. -/

namespace Sys2Proof.Machine

variable {s t : State} {src : FrameBuffer} {own : Bool}

/-! ### The frame buffer and frames -/

@[simp] theorem fbStore_b0 (fb src : FrameBuffer) (c : Bool) : (fbStore fb src c).b0 = src.b0 := rfl
@[simp] theorem fbStore_b1 (fb src : FrameBuffer) (c : Bool) : (fbStore fb src c).b1 = src.b1 := rfl
@[simp] theorem fbStore_b2_on (fb src : FrameBuffer) : (fbStore fb src true).b2 = src.b2 := rfl
@[simp] theorem fbStore_b2_off (fb src : FrameBuffer) : (fbStore fb src false).b2 = fb.b2 := rfl

/-- Of two stores of one mode the last one shows, `FB[2]` apart while CRC is off. -/
@[simp] theorem fbStore_fbStore (fb a b : FrameBuffer) (c : Bool) :
    fbStore (fbStore fb a c) b c = fbStore fb b c := by
  cases c <;> rfl

/-- The frame in the buffer after a store is the stored one, whatever the buffer held (R13). -/
theorem fbFrame_fbStore (fb src : FrameBuffer) (c : Bool) : fbFrame (fbStore fb src c) c = fbFrame src c := by
  cases c <;> rfl

/-- The bytes ENCODE puts in the buffer are the frame of R46 and R48. -/
theorem fbFrame_requestBytes (cfg : Config) (c d : Byte) (e : Bool) :
    fbFrame (requestBytes cfg c d) e = requestFrame cfg c d e := by
  cases e <;> rfl

/-- Every frame has the length of its mode (R45). -/
theorem length_fbFrame (fb : FrameBuffer) (c : Bool) : (fbFrame fb c).length = flen c := by
  cases c <;> rfl

theorem length_requestFrame (cfg : Config) (c d : Byte) (e : Bool) :
    (requestFrame cfg c d e).length = flen e := by
  cases e <;> rfl

/-! ### The exchange -/

/-- The state after an exchange with draw `d`. -/
def State.exchanged (s : State) (own : Bool) (d : Draw) : State :=
  { s with
      phase := .exchange
      fb := fbAfter s.fb s.crcEn d.answer
      remote := remoteAfter s.remote own s.fb.b0 s.fb.b1 d
      latched := latchedAfter s.latched own s.fb.b0 d
      script := s.script.tail
      sent := s.sent ++ [fbFrame s.fb s.crcEn] }

theorem State.exchange_eq (s : State) (own : Bool) :
    s.exchange own = s.nextDraw.map fun d => (s.exchanged own d, d.answer) := by
  unfold State.exchange
  cases s.nextDraw <;> rfl

/-- A waiting answer is the one given. -/
theorem State.nextDraw_of_answersNext {d : Draw} (h : s.AnswersNext d) : s.nextDraw = some d := by
  obtain ⟨rest, hr⟩ : ∃ rest, s.script = .answered d :: rest := by
    cases hs : s.script with
    | nil => simp [State.AnswersNext, hs] at h
    | cons x rest => simp [State.AnswersNext, hs] at h; exact ⟨rest, by rw [h]⟩
  simp [State.nextDraw, hr]

/-- An exchange fails to return only when the script says so. -/
theorem State.nextDraw_of_answers (h : s.AlwaysAnswers) : ∃ d, s.nextDraw = some d := by
  unfold State.nextDraw
  split
  · exact ⟨_, rfl⟩
  · rename_i hs
    exact absurd rfl (h .never (by simp [hs]))
  · exact ⟨_, rfl⟩

theorem State.nextDraw_congr {s s' : State} (hs : s'.script = s.script)
    (hn : s'.sent.length = s.sent.length) : s'.nextDraw = s.nextDraw := by
  simp [State.nextDraw, hs, hn]

@[simp] theorem State.load_nextDraw (s : State) (src : FrameBuffer) :
    (s.load src).nextDraw = s.nextDraw := State.nextDraw_congr rfl rfl

/-- A write frame, said whole: the frame is sent once, the answer is not examined. -/
theorem State.sendWrite_eq (s : State) (src : FrameBuffer) (own : Bool) :
    s.sendWrite src own =
      s.nextDraw.map fun d => ((s.load src).exchanged own d, writeOutcome d.answer) := by
  simp only [State.sendWrite, State.exchange_eq, State.load_nextDraw, Option.map_map]
  rfl

/-- A read frame, said whole: the frame is sent once, the answer is decoded. -/
theorem State.sendRead_eq (s : State) (src : FrameBuffer) (own : Bool) :
    s.sendRead src own =
      s.nextDraw.map fun d =>
        ({ (s.load src).exchanged own d with phase := .decode },
          readOutcome s.cfg (fbAfter (fbStore s.fb src s.crcEn) s.crcEn d.answer) s.crcEn
            d.answer) := by
  simp only [State.sendRead, State.exchange_eq, State.load_nextDraw, Option.map_map]
  rfl

/-! ### One register -/

theorem State.readRegister_invalid {reg : Nat} (h : regValid s.cfg reg = false) :
    s.readRegister reg = some (s, .error .invalidArgument) := by
  simp [State.readRegister, h]

theorem State.readRegister_valid {reg : Nat} (h : regValid s.cfg reg = true) :
    s.readRegister reg =
      s.sendRead (requestBytes s.cfg (ctrl s.cfg s.chipAddr reg false) 0x00) true := by
  simp [State.readRegister, h]

theorem State.writeRegister_invalid {reg : Nat} {data : Byte} (h : regValid s.cfg reg = false) :
    s.writeRegister reg data = some (s, .error .invalidArgument) := by
  simp [State.writeRegister, h]

theorem State.writeRegister_valid {reg : Nat} {data : Byte} (h : regValid s.cfg reg = true) :
    s.writeRegister reg data =
      s.sendWrite (requestBytes s.cfg (ctrl s.cfg s.chipAddr reg true) data) true := by
  simp [State.writeRegister, h]

/-- `integrity_ok`, said once (R67). -/
theorem integrityOk_iff (cfg : Config) (f0 f1 f2 : Byte) (c : Bool) :
    integrityOk cfg f0 f1 f2 c = true ↔ (c = true → crc8 cfg f0 f1 .inbound = f2) := by
  cases c <;> simp [integrityOk, crcVerify]

/-- What a read makes of a response, said over the response and not over the buffer (R71). -/
theorem readOutcome_ok (cfg : Config) (fb rx : FrameBuffer) (c : Bool) :
    readOutcome cfg (fbStore fb rx c) c (.ok rx) =
      if c = true ∧ crc8 cfg rx.b0 rx.b1 .inbound ≠ rx.b2 then .error .integrityFailure
      else .ok rx.b1 := by
  cases c <;> simp [readOutcome, integrityOk, crcVerify, fbStore]

@[simp] theorem readOutcome_fail (cfg : Config) (fb : FrameBuffer) (c : Bool) (e : TransportError) :
    readOutcome cfg fb c (.fail e) = .error (.transportFailure e) := rfl

/-- The errors a read frame can come to: never `InvalidArgument` nor `OutOfMemory`, and
`IntegrityFailure` only with CRC on (R100). -/
theorem readOutcome_error {cfg : Config} {fb : FrameBuffer} {c : Bool} {a : Answer} {k : ErrorKind}
    (h : readOutcome cfg fb c a = .error k) :
    (k = .integrityFailure ∧ c = true) ∨ ∃ e, k = .transportFailure e ∧ a = .fail e := by
  cases a with
  | fail e => exact .inr ⟨e, by cases h; rfl, rfl⟩
  | ok rx =>
    refine .inl ?_
    simp only [readOutcome] at h
    split at h
    · cases h
    · rename_i hi
      rw [integrityOk_iff] at hi
      exact ⟨by cases h; rfl, by cases c <;> simp_all⟩

/-- The errors a write frame can come to: the transport's (R72). -/
theorem writeOutcome_error {a : Answer} {k : ErrorKind} (h : writeOutcome a = .error k) :
    ∃ e, k = .transportFailure e ∧ a = .fail e := by
  cases a with
  | fail e => exact ⟨e, by cases h; rfl, rfl⟩
  | ok rx => cases h

/-- What an exchange leaves alone, and what it keeps. -/
theorem State.exchanged_same (s : State) (own : Bool) (d : Draw) :
    SameConfiguration s (s.exchanged own d) ∧ (s.exchanged own d).busy = s.busy ∧
      (s.exchanged own d).result = s.result ∧ (s.exchanged own d).script = s.script.tail := by
  simp [SameConfiguration, State.exchanged]

theorem State.exchanged_wf (s : State) (own : Bool) (d : Draw) :
    (memoryWf s.remote → memoryWf (s.exchanged own d).remote) ∧
      (latchesWf s.latched → latchesWf (s.exchanged own d).latched) :=
  ⟨memoryWf_remoteAfter _ _ _ _, latchesWf_latchedAfter _ _ _⟩

/-- Everything `REG_READ` can do from its CHECK on: nothing but the error, or one exchange of the read
frame. -/
theorem State.readRegister_cases {reg : Nat} {r : Except ErrorKind Byte}
    (h : s.readRegister reg = some (t, r)) :
    (regValid s.cfg reg = false ∧ t = s ∧ r = .error .invalidArgument) ∨
    (regValid s.cfg reg = true ∧ ∃ d, s.nextDraw = some d ∧
      t = { (s.load (requestBytes s.cfg (ctrl s.cfg s.chipAddr reg false) 0x00)).exchanged true d
            with phase := .decode } ∧
      r = readOutcome t.cfg t.fb t.crcEn d.answer) := by
  cases hv : regValid s.cfg reg with
  | false =>
    rw [State.readRegister_invalid hv] at h
    cases h
    exact .inl ⟨rfl, rfl, rfl⟩
  | true =>
    rw [State.readRegister_valid hv, State.sendRead_eq] at h
    cases hd : s.nextDraw with
    | none => simp [hd] at h
    | some d =>
      rw [hd] at h
      cases h
      exact .inr ⟨rfl, d, rfl, rfl, rfl⟩

/-- Everything `REG_WRITE` can do from its CHECK on: nothing but the error, or one exchange of the
write frame. -/
theorem State.writeRegister_cases {reg : Nat} {data : Byte} {r : Except ErrorKind Unit}
    (h : s.writeRegister reg data = some (t, r)) :
    (regValid s.cfg reg = false ∧ t = s ∧ r = .error .invalidArgument) ∨
    (regValid s.cfg reg = true ∧ ∃ d, s.nextDraw = some d ∧
      t = (s.load (requestBytes s.cfg (ctrl s.cfg s.chipAddr reg true) data)).exchanged true d ∧
      r = writeOutcome d.answer) := by
  cases hv : regValid s.cfg reg with
  | false =>
    rw [State.writeRegister_invalid hv] at h
    cases h
    exact .inl ⟨rfl, rfl, rfl⟩
  | true =>
    rw [State.writeRegister_valid hv, State.sendWrite_eq] at h
    cases hd : s.nextDraw with
    | none => simp [hd] at h
    | some d =>
      rw [hd] at h
      cases h
      exact .inr ⟨rfl, d, rfl, rfl, rfl⟩

/-- The frame sent by a loaded request. -/
theorem State.exchanged_sent (s : State) (c d : Byte) (own : Bool) (dr : Draw) :
    ((s.load (requestBytes s.cfg c d)).exchanged own dr).sent =
      s.sent ++ [requestFrame s.cfg c d s.crcEn] := by
  simp [State.exchanged, fbFrame_fbStore, fbFrame_requestBytes]

/-! ### What a frame does to the device -/

/-- Bit 0 of a control byte is R/W (R47). -/
theorem ctrl_getLsbD_zero {cfg : Config} (h : cfg.Valid) (chip reg : Nat) (rw : Bool) :
    (ctrl cfg chip reg rw).getLsbD 0 = rw := by
  have hw : cfg.chipAddrW ≤ 6 := h.2.1
  have hc : (chip <<< (8 - cfg.chipAddrW)).testBit 0 = false := by
    rw [Nat.testBit_shiftLeft, decide_eq_false (by omega), Bool.false_and]
  have hr : (reg <<< 1).testBit 0 = false := by
    rw [Nat.testBit_shiftLeft, decide_eq_false (by omega), Bool.false_and]
  rw [ctrl, BitVec.getLsbD_ofNat, Nat.testBit_or, Nat.testBit_or, hc, hr]
  cases rw <;> rfl

/-- The read and the write frame of one register carry one link address (R47). -/
theorem linkAddr_ctrl (cfg : Config) (chip reg : Nat) (rw : Bool) :
    (linkAddr (ctrl cfg chip reg rw)).toNat = linkKey cfg chip reg := by
  unfold linkKey
  congr 1
  unfold linkAddr ctrl
  ext i hi
  have ho : rw.toNat.testBit (1 + i) = false := by
    rw [Nat.add_comm, Nat.testBit_succ]
    cases rw <;> simp
  simp [BitVec.getLsbD_ofNat, ho]

/-- What a write frame does to the device, as the statements say it. -/
theorem wroteTo_of_after {s t : State} {own : Bool} {d : Draw} {c w : Byte} (hc : c.getLsbD 0 = true)
    (hr : t.remote = remoteAfter s.remote own c w d)
    (hl : t.latched = latchedAfter s.latched own c d) : WroteTo s t d (linkAddr c).toNat w := by
  have ht : frameTaken own c d = d.taken := by
    unfold frameTaken
    rw [hc]
    cases d.answer <;> rfl
  refine ⟨fun h => ?_, fun a ha => ?_, fun x => ?_⟩
  · rw [hr, remoteAfter, ht, h, hc, if_pos rfl, if_pos rfl]
    exact memoryRead_write_same _ _ _
  · rw [hr, remoteAfter, ht, hc, if_pos rfl]
    split
    · exact memoryRead_write_other _ _ (ha.resolve_left (by simp_all))
    · rfl
  · rw [hl, latchedAfter, hc, Bool.not_true, Bool.and_false]
    exact mem_latchSetAll

/-- What a read frame does to the device, as the statements say it. -/
theorem readFrom_of_after {s t : State} {own : Bool} {d : Draw} {c w : Byte}
    (hc : c.getLsbD 0 = false) (hr : t.remote = remoteAfter s.remote own c w d)
    (hl : t.latched = latchedAfter s.latched own c d) :
    ReadFrom s t d (readTook own d) (linkAddr c).toNat := by
  have ht : frameTaken own c d = readTook own d := by
    unfold frameTaken readTook
    rw [hc]
    rfl
  refine ⟨fun h => ⟨fun a => ?_, fun x => ?_⟩, fun h => ⟨fun a => ?_, fun x => ?_⟩⟩
  · rw [hr, remoteAfter, ht, h, hc]
    rfl
  · rw [hl, latchedAfter, ht, h, hc]
    exact mem_latchClear.trans (and_congr_left' mem_latchSetAll)
  · rw [hr, remoteAfter, ht, h]
    rfl
  · rw [hl, latchedAfter, ht, h]
    exact mem_latchSetAll

/-- A register read of a valid address whose answer is `d`, said over the state it leaves: the parts INIT's
handshake and the statements speak of. -/
theorem State.readRegister_answered {s : State} {a : Nat} {d : Draw} (hd : s.nextDraw = some d)
    (ha : a ≤ s.cfg.regAddrMax) :
    ∃ t, s.readRegister a =
        some (t, readOutcome s.cfg
          (fbAfter (fbStore s.fb (requestBytes s.cfg (ctrl s.cfg s.chipAddr a false) 0x00) s.crcEn)
            s.crcEn d.answer) s.crcEn d.answer) ∧
      t.script = s.script.tail ∧ t.sent = s.sent ++ [encRead s.cfg s.chipAddr a s.crcEn] ∧
      SameConfiguration s t ∧
      t.remote = remoteAfter s.remote true (ctrl s.cfg s.chipAddr a false) 0x00 d ∧
      t.latched = latchedAfter s.latched true (ctrl s.cfg s.chipAddr a false) d := by
  rw [State.readRegister_valid (by simp [regValid, ha]), State.sendRead_eq, hd]
  exact ⟨_, rfl, rfl, State.exchanged_sent s (ctrl s.cfg s.chipAddr a false) 0x00 true d,
    by simp [SameConfiguration, State.exchanged, State.load], rfl, rfl⟩

/-- What a read of a register does to the remote registers: nothing but what the device does (log 6). -/
theorem remoteAfter_read {cfg : Config} (h : cfg.Valid) (m : List Host.Cell) (own : Bool) (chip reg : Nat)
    (w : Byte) (d : Draw) :
    remoteAfter m own (ctrl cfg chip reg false) w d =
      memoryChange (memoryChange m d.drift) (if readTook own d then d.readEffect else []) := by
  have hc := ctrl_getLsbD_zero h chip reg false
  have ht : frameTaken own (ctrl cfg chip reg false) d = readTook own d := by
    unfold frameTaken readTook
    rw [hc]
    rfl
  rw [remoteAfter, ht, hc]
  cases readTook own d <;> rfl

/-! ### Entry and exit of an operation on an instance -/

variable {body : State → Option (State × Except ErrorKind Value)}

theorem State.onInstance_notLive (h : s.live = false) : s.onInstance body = .refused .notLive := by
  simp [State.onInstance, h]

theorem State.onInstance_busy (h : s.live = true) (hb : s.busy = true) :
    s.onInstance body = .refused .instanceBusy := by
  simp [State.onInstance, h, hb]

theorem State.onInstance_ready (h : s.Ready) :
    s.onInstance body = finish (body { s with busy := true, phase := .check }) := by
  simp [State.onInstance, h.1, h.2]

/-- An operation on an instance that goes on: the instance was there and free, and the result is what
the body came to. -/
theorem State.onInstance_next (h : s.onInstance body = .next t) :
    s.Ready ∧ ∃ s' r, body { s with busy := true, phase := .check } = some (s', r) ∧
      t = s'.complete r := by
  unfold State.onInstance at h
  split at h
  · cases h
  · split at h
    · cases h
    · have hr : s.Ready := by constructor <;> simp_all
      refine ⟨hr, ?_⟩
      cases hb : body { s with busy := true, phase := .check } with
      | none => simp [finish, hb] at h
      | some p =>
        obtain ⟨s', r⟩ := p
        simp only [finish, hb] at h
        exact ⟨s', r, rfl, by cases h; rfl⟩

/-- A request frame that goes on is one of the instance: live and free, fields that fit, its chip
address (R29), its mode; and it is an address error or what the body came to. -/
theorem State.onFrame_next {mode : Bool} {chip reg : Nat} (h : s.onFrame mode chip reg body = .next t) :
    s.Ready ∧ chipFits s.cfg chip = true ∧ regFits s.cfg reg = true ∧ chip = s.chipAddr ∧
      s.crcEn = mode ∧ ∃ s' r,
        (if regValid s.cfg reg then body { s with busy := true, phase := .check }
          else some ({ s with busy := true, phase := .check }, .error .invalidArgument)) =
            some (s', r) ∧ t = s'.complete r := by
  simp only [State.onFrame] at h
  split at h
  · cases h
  · split at h
    · cases h
    · split at h
      · cases h
      · obtain ⟨hr, s', r, hb, ht⟩ := State.onInstance_next h
        have hfree : (s.live && !s.busy) = true := by simp [hr.1, hr.2]
        refine ⟨hr, ?_, ?_, ?_, ?_, s', r, hb, ht⟩ <;> simp_all

end Sys2Proof.Machine
end

