-- ==== Sys2Proof/Laws/PerInstr.lean ====
section
/-! SUPPORT. Statements about every instruction, one lemma per constructor.

EncodedLength: an instruction that has an encoding is a frame of 2 or 3 bytes (R45); an operation has
none (R44). -/

namespace Sys2Proof.Laws.EncodedLength

/-- Whatever bytes encode the instruction, there are 2 or 3 of them. -/
def Statement (i : Instr) : Prop :=
  ∀ cfg bytes, encode cfg i = some bytes → bytes.length = 2 ∨ bytes.length = 3

theorem regwrF16 (chip reg : Nat) (data : Byte) : Statement (.regwrF16 chip reg data) := by
  rintro cfg bytes ⟨⟩
  simp

theorem regrdF16 (chip reg : Nat) : Statement (.regrdF16 chip reg) := by
  rintro cfg bytes ⟨⟩
  simp

theorem regwrF24 (chip reg : Nat) (data crc : Byte) : Statement (.regwrF24 chip reg data crc) := by
  rintro cfg bytes ⟨⟩
  simp

theorem regrdF24 (chip reg : Nat) (crc : Byte) : Statement (.regrdF24 chip reg crc) := by
  rintro cfg bytes ⟨⟩
  simp

theorem rspR16 (rx0 rdata : Byte) : Statement (.rspR16 rx0 rdata) := by
  rintro cfg bytes ⟨⟩
  simp

theorem rspR24 (rx0 rdata rcrc : Byte) : Statement (.rspR24 rx0 rdata rcrc) := by
  rintro cfg bytes ⟨⟩
  simp

theorem crcCompute (b0 b1 : Byte) (dir : Dir) : Statement (.crcCompute b0 b1 dir) := by
  rintro cfg bytes ⟨⟩

theorem crcVerify (b0 b1 expected : Byte) : Statement (.crcVerify b0 b1 expected) := by
  rintro cfg bytes ⟨⟩

theorem encWrite (chip reg : Nat) (data : Byte) (c : Bool) : Statement (.encWrite chip reg data c) := by
  rintro cfg bytes ⟨⟩

theorem encRead (chip reg : Nat) (c : Bool) : Statement (.encRead chip reg c) := by
  rintro cfg bytes ⟨⟩

theorem decResp (f : List Byte) (c : Bool) : Statement (.decResp f c) := by
  rintro cfg bytes ⟨⟩

theorem regRead (reg : RegOperand) : Statement (.regRead reg) := by
  rintro cfg bytes ⟨⟩

theorem regWrite (reg : RegOperand) (data : Byte) : Statement (.regWrite reg data) := by
  rintro cfg bytes ⟨⟩

theorem regUpdate (reg : RegOperand) (mask value : Byte) : Statement (.regUpdate reg mask value) := by
  rintro cfg bytes ⟨⟩

theorem dbgRead (addr : Nat) : Statement (.dbgRead addr) := by
  rintro cfg bytes ⟨⟩

theorem dbgWrite (addr : Nat) (val : Byte) : Statement (.dbgWrite addr val) := by
  rintro cfg bytes ⟨⟩

theorem init (chipAddr : Nat) (crcEn : Bool) : Statement (.init chipAddr crcEn) := by
  rintro cfg bytes ⟨⟩

theorem teardown : Statement .teardown := by
  rintro cfg bytes ⟨⟩

end Sys2Proof.Laws.EncodedLength
end

