-- ==== Sys2Proof/Laws/Policy.lean ====
section
/-! SUPPORT. The host layer: what a read issued by the host returns, and what a show makes of it. -/

namespace Sys2Proof.Machine

variable {s t : State}

/-- REG.READ that answers a next state has returned a byte or an error, whatever its operand. -/
theorem regRead_returns {op : RegOperand} (h : exec (.regRead op) s = .next t) :
    ∃ r : Except ErrorKind Byte, t.result = some (resultOf (r.map .byte)) := by
  have h' : execRegRead op s = .next t := h
  obtain ⟨-, s', v, hb, rfl⟩ := State.onInstance_next h'
  obtain ⟨⟨s₁, r⟩, -, hr⟩ := Option.map_eq_some_iff.mp hb
  cases hr
  exact ⟨r, rfl⟩

@[simp] theorem returnedByte_byte {r : Except ErrorKind Byte}
    (h : t.result = some (resultOf (r.map .byte))) : returnedByte t = some r := by
  cases r <;> simp [returnedByte, h, resultOf, Except.map]

/-- A show over one read returns what the read returned, rendered. -/
theorem readAndRender_next {reg : Nat} {render : Byte → String}
    (h : exec (.regRead (.direct reg)) s = .next t) :
    ∃ r : Except ErrorKind Byte, returnedByte t = some r ∧
      readAndRender reg render s = .next (t, some (r.map render)) := by
  obtain ⟨r, hr⟩ := regRead_returns h
  refine ⟨r, returnedByte_byte hr, ?_⟩
  simp [readAndRender, h, returnedByte_byte hr]

theorem attributeChannel_shared {a : Attribute} (h : a.shared = true) (n ch : Nat) :
    attributeChannel n a ch = .ok 0 := by
  simp [attributeChannel, h]

theorem attributeChannel_ok {a : Attribute} {n ch : Nat} (h : a.shared = false) (hc : ch < n) :
    attributeChannel n a ch = .ok ch := by
  simp [attributeChannel, h, Nat.not_le.mpr hc]

theorem attributeChannel_error {a : Attribute} {n ch : Nat} (h : a.shared = false) (hc : n ≤ ch) :
    attributeChannel n a ch = .error .invalidArgument := by
  simp [attributeChannel, h, hc]

/-- The channel an access acts on: its own, or channel 0 for a shared attribute (log 29). -/
theorem attributeChannel_eq {a : Attribute} {n ch c : Nat}
    (h : a.shared = false ∧ ch < n ∧ c = ch ∨ a.shared = true ∧ c = 0) :
    attributeChannel n a ch = .ok c := by
  rcases h with ⟨hs, hc, rfl⟩ | ⟨hs, rfl⟩
  · exact attributeChannel_ok hs hc
  · exact attributeChannel_shared hs n ch

/-- Exactly the enabled channels below the fixed maximum. -/
theorem mem_enabledChannels {n ch : Nat} {enabled : List Nat} :
    ch ∈ enabledChannels n enabled ↔ ch < n ∧ ch ∈ enabled := by
  simp [enabledChannels]

/-- A stored integer is rejected exactly outside its range (R91). -/
theorem storedValue_error {v bound : Int} (h : v < 0 ∨ bound ≤ v) :
    storedValue v bound = .error .invalidArgument := by
  have hr : ¬(0 ≤ v ∧ v < bound) := by omega
  simp only [storedValue, hr, if_false]

theorem storedValue_ok {v bound : Int} (h₀ : 0 ≤ v) (h : v < bound) :
    storedValue v bound = .ok v.toNat := by
  simp only [storedValue, h₀, h, and_self, if_true]

/-- A 16-bit counter value is in range, and is the value stored (R83, R91). -/
theorem storedValue_word (w : BitVec 16) : storedValue (w.toNat : Int) 0x10000 = .ok w.toNat := by
  have h : (w.toNat : Int) < 0x10000 := Int.ofNat_lt.mpr w.isLt
  rw [storedValue_ok (Int.natCast_nonneg _) h, Int.toNat_natCast]

/-- A code that its field keeps whole is stored. -/
theorem storedCode_ok {code : Byte} {off : Nat} {mask : Byte}
    (h : fieldExtract (fieldInsert code off mask) mask off = code) :
    storedCode code.toNat off mask = .ok code := by
  have hlt : (code.toNat : Int) < 0x100 := Int.ofNat_lt.mpr code.isLt
  simp only [storedCode, storedValue_ok (Int.natCast_nonneg _) hlt, Except.bind, Int.toNat_natCast,
    BitVec.ofNat_toNat, BitVec.setWidth_eq, h, if_true]

/-- An integer that is no code its field keeps whole is rejected. -/
theorem storedCode_error {v : Int} {off : Nat} {mask : Byte}
    (h : ∀ code : Byte, v = (code.toNat : Int) →
      fieldExtract (fieldInsert code off mask) mask off ≠ code) :
    storedCode v off mask = .error .invalidArgument := by
  by_cases hr : 0 ≤ v ∧ v < 0x100
  · have hk := h (BitVec.ofNat 8 v.toNat) (by rw [BitVec.toNat_ofNat]; omega)
    simp only [storedCode, storedValue_ok hr.1 hr.2, Except.bind, hk, if_false]
  · simp only [storedCode, storedValue_error (show v < 0 ∨ 0x100 ≤ v by omega), Except.bind]

/-- A store is, on the channel it acts on, what it makes of the parsed string. -/
theorem storeAttribute_eq {parse : String → Option Int} {m : HostMap} {n ch c : Nat} {a : Attribute}
    {target : StoreTarget} (ha : a.stores = some target) (hc : attributeChannel n a ch = .ok c)
    (text : String) :
    storeAttribute parse m n a ch text = some (storeParsed m n c target (parse text)) := by
  simp only [storeAttribute, ha, Option.map_some, hc, Except.bind]

/-- A value of the delay table is found at its index (R85). -/
theorem searchFrom_delayTable {i v : Nat} (h : delayTable[i]? = some v) :
    searchFrom v 0 delayTable = some i := by
  have hi : i < 8 := (List.getElem?_eq_some_iff.mp h).1
  interval_cases i <;> simp [delayTable] at h <;> subst h <;> simp [searchFrom, delayTable]

/-- A value that is not in the table is not found, wherever the search starts (R85). -/
theorem searchFrom_none {v : Nat} {table : List Nat} (h : v ∉ table) (i : Nat) :
    searchFrom v i table = none := by
  induction table generalizing i with
  | nil => rfl
  | cons x rest ih =>
    obtain ⟨hx, hrest⟩ := not_or.mp (mt List.mem_cons.mpr h)
    simp [searchFrom, Ne.symm hx, ih hrest]

end Sys2Proof.Machine
end

