-- ==== Sys2Proof/Tests/Slice0.lean ====
section
/-! SUPPORT. The model's own tests. Expected values come from `95_test_vectors.md` (named V-… below) or
are worked out by hand from the formats of `30_encoding.md`. At the end, for each obligation with
hypotheses, a state and operands that meet them all. -/

namespace Sys2Proof.Tests

open Sys2Proof Sys2Proof.Machine

/-! ### Helpers -/

/-- An exchange answered with these bytes; the device takes the frame and does nothing by itself. -/
def answered (b0 b1 b2 : Byte) : Exchange :=
  .answered { answer := .ok ⟨b0, b1, b2⟩, taken := true, drift := [], latch := [], readEffect := [] }

/-- An exchange that fails with the given transport error. -/
def failed (e : TransportError) : Exchange :=
  .answered { answer := .fail e, taken := false, drift := [], latch := [], readEffect := [] }

/-- A live instance with `CHIP_ADDR` = 2, reference parameters (the setting of section 2.4). -/
def liveState (crcEn : Bool) (script : List Exchange) : State :=
  { State.reset with live := true, chipAddr := 2, crcEn := crcEn, script := script }

/-- The state a step ends in, reset if it stops. -/
def after : StepOutcome → State
  | .next t => t
  | .fault _ => State.reset
  | .refused _ => State.reset

/-- The refusal of a step, if it is one. -/
def refusal : StepOutcome → Option Refusal
  | .refused r => some r
  | .next _ => none
  | .fault _ => none

/-! ### WellFormed refuses an ill-formed term of each check -/

theorem test_wf_chip_too_wide : (Instr.regwrF16 4 0 0x00).wellFormed Config.reference = false := by decide
theorem test_wf_reg_too_wide : (Instr.regrdF16 0 0x20).wellFormed Config.reference = false := by decide
theorem test_wf_write_crc : (Instr.regwrF24 2 0x0A 0x5C 0x32).wellFormed Config.reference = false := by
  decide +kernel
theorem test_wf_read_crc : (Instr.regrdF24 2 0x0A 0xB4).wellFormed Config.reference = false := by
  decide +kernel
theorem test_wf_good_frames : (Instr.regwrF24 2 0x0A 0x5C 0x33).wellFormed Config.reference = true ∧
    (Instr.regrdF24 2 0x0A 0xB5).wellFormed Config.reference = true := by decide +kernel
theorem test_wf_encWrite_reg : (Instr.encWrite 2 0x20 0x00 false).wellFormed Config.reference = false := by
  decide
theorem test_wf_encRead_chip : (Instr.encRead 4 0x00 false).wellFormed Config.reference = false := by decide

/-! ### Decoding: words written out from R46 to R51, A = 2: cc rrrrr w dddddddd kkkkkkkk -/

/-- 10 01010 1 ‖ 01011100 (V-CTL-6, V-ENC-1) -/
theorem test_decode_regwrF16 : decodeTableWord 16 0b1001010101011100 = some (.regwrF16 2 0x0A 0x5C) := by
  decide
/-- 11 11111 0 ‖ 00000000 (V-CTL-4) -/
theorem test_decode_regrdF16 : decodeTableWord 16 0b1111111000000000 = some (.regrdF16 3 0x1F) := by decide
/-- 10 00100 1 ‖ 00000010 ‖ 00000101 (V-ENC-7) -/
theorem test_decode_regwrF24 :
    decodeTableWord 24 0b100010010000001000000101 = some (.regwrF24 2 0x04 0x02 0x05) := by decide
/-- 01 10000 0 ‖ 00000000 ‖ kkkkkkkk (V-CTL-5) -/
theorem test_decode_regrdF24 :
    decodeTableWord 24 0b011000000000000011111111 = some (.regrdF24 1 0x10 0xFF) := by decide
/-- a response has no fixed bits (R59) -/
theorem test_decode_rspR16 : decodeFrame Config.reference .inbound [0x95, 0x5C] = .ok (.rspR16 0x95 0x5C) := by
  decide
theorem test_decode_rspR24 :
    decodeFrame Config.reference .inbound [0x95, 0x5C, 0x33] = .ok (.rspR24 0x95 0x5C 0x33) := by decide
/-- bits that no request has, R/W = 0 and data not 0x00, are read as a response -/
theorem test_decode_implied_response : decodeTableWord 16 0xC25C = some (.rspR16 0xC2 0x5C) := by decide
/-- the same byte with A = 3: chip 4, register 0x0A (section 2.2) -/
theorem test_split_other_width :
    splitCtrl { Config.reference with chipAddrW := 3 } 0x95 = ⟨4, 0x0A, true⟩ := by decide
/-- V-CTL-8 -/
theorem test_ctrl_other_width : ctrl { Config.reference with chipAddrW := 3 } 5 0x0A true = 0xB5 := by decide
theorem test_decode_bad_lengths :
    decodeFrame Config.reference .outbound [0x95] = .error .badLength ∧
      decodeFrame Config.reference .inbound [0, 0, 0, 0] = .error .badLength := by decide
theorem test_decode_read_with_data :
    decodeFrame Config.reference .outbound [0x94, 0x01] = .error .readDataNotZero := by decide
theorem test_no_word_of_other_width : decodeTableWord 8 0x95 = none := by decide

/-! ### CRC engine: V-CRC-9, V-CRC-6, and the parameter vectors -/

theorem test_crc_compute : (after (exec (.crcCompute 0x95 0x5C .outbound) .reset)).result =
    some (.ok (.byte 0x33)) := by decide +kernel
theorem test_crc_all_ones : crc8 Config.reference 0xFF 0xFF .inbound = 0x24 := by decide +kernel
/-- V-CRC-P3: the initial value of the direction -/
theorem test_crc_direction :
    crc8 { Config.reference with crcInitIn := 0xFF } 0x00 0x5C .inbound = 0x44 := by decide +kernel
/-- V-CRC-P5, V-CRC-P6, V-CRC-P7 -/
theorem test_crc_parameters :
    crc8 { Config.reference with crcPoly := 0x31, crcInitOut := 0xFF } 0x95 0x5C .outbound = 0xB8 ∧
    crc8 { Config.reference with crcRefIn := true, crcRefOut := true } 0x95 0x5C .outbound = 0xC0 ∧
    crc8 { Config.reference with crcXorOut := 0x55 } 0x95 0x5C .outbound = 0x66 := by decide +kernel
/-- V-VER-1, V-VER-3 -/
theorem test_crc_verify :
    (after (exec (.crcVerify 0x00 0x5C 0x93) .reset)).result = some (.ok (.bool true)) ∧
    (after (exec (.crcVerify 0x00 0x5D 0x93) .reset)).result = some (.ok (.bool false)) := by decide +kernel

/-! ### Frame codec -/

/-- V-ENC-2 -/
theorem test_encWrite : (after (exec (.encWrite 2 0x0A 0x5C true) .reset)).result =
    some (.ok (.bytes [0x95, 0x5C, 0x33])) := by decide +kernel
/-- V-ENC-8 -/
theorem test_encWrite_too_wide :
    refusal (exec (.encWrite 2 0x20 0x00 false) .reset) = some .fieldTooWide := by decide
/-- V-ENC-4 -/
theorem test_encRead : (after (exec (.encRead 2 0x0A true) .reset)).result =
    some (.ok (.bytes [0x94, 0x00, 0xB5])) := by decide +kernel
/-- V-DEC-3, V-DEC-4 -/
theorem test_decResp :
    (after (exec (.decResp [0x00, 0x5C, 0x92] true) .reset)).result =
      some (.ok (.decoded 0x5C false)) ∧
    (after (exec (.decResp [0x00, 0x5C, 0x93] false) .reset)).result =
      some (.ok (.decoded 0x5C true)) := by decide +kernel
/-- V-DEC-5 -/
theorem test_decResp_short : (after (exec (.decResp [0x00, 0x5C] true) .reset)).result =
    some (.err .invalidArgument) := by decide
theorem test_rspR16 : (after (exec (.rspR16 0xC3 0x5C) .reset)).result =
    some (.ok (.decoded 0x5C true)) := by decide
/-- V-DEC-8 -/
theorem test_rspR24 : (after (exec (.rspR24 0xC3 0x5C 0x41) .reset)).result =
    some (.ok (.decoded 0x5C true)) := by decide +kernel

/-! ### Register access -/

/-- V-RD-2 -/
theorem test_regRead_crc : let t := after (exec (.regRead (.direct 0x0A)) (liveState true [answered 0x00 0x5C 0x93]))
    t.result = some (.ok (.byte 0x5C)) ∧ t.sent = [[0x94, 0x00, 0xB5]] := by decide +kernel
/-- V-RD-4 -/
theorem test_regRead_corrupted :
    (after (exec (.regRead (.direct 0x0A)) (liveState true [answered 0xC3 0x54 0x41]))).result =
      some (.err .integrityFailure) := by decide +kernel
/-- V-WR-2: the response's CRC is wrong and is not looked at -/
theorem test_regWrite : let t := after (exec (.regWrite (.direct 0x0A) 0x5C) (liveState true [answered 0x12 0x34 0x56]))
    t.result = some (.ok .unit) ∧ t.sent = [[0x95, 0x5C, 0x33]] ∧
      memoryRead t.remote 0b1001010 = some 0x5C := by decide +kernel
/-- V-CH-3: 0x1E + 2 = 32 is above 31, and does not wrap -/
theorem test_regWrite_banked_sum :
    (after (exec (.regWrite (.banked 0x1E 2) 0x00) (liveState false []))).result =
      some (.err .invalidArgument) := by decide
/-- V-UPD-1 -/
theorem test_regUpdate :
    let t := after (exec (.regUpdate (.direct 0x0A) 0x0C 0x08)
      (liveState false [answered 0x00 0xA5 0x00, answered 0x00 0x00 0x00]))
    t.result = some (.ok .unit) ∧ t.sent = [[0x94, 0x00], [0x95, 0xA9]] := by decide +kernel
/-- V-UPD-6: no write frame after a failed read -/
theorem test_regUpdate_failed_read :
    let t := after (exec (.regUpdate (.direct 0x0A) 0x0C 0x08) (liveState true [answered 0x00 0xA5 0x73]))
    t.result = some (.err .integrityFailure) ∧ t.sent = [[0x94, 0x00, 0xB5]] := by decide +kernel
/-- V-DBG-1 -/
theorem test_dbgRead : let t := after (exec (.dbgRead 0x0A) (liveState false [answered 0x00 0x5C 0x00]))
    t.result = some (.ok (.byte 0x5C)) ∧ t.sent = [[0x94, 0x00]] := by decide +kernel
/-- V-DBG-2 -/
theorem test_dbgWrite : let t := after (exec (.dbgWrite 0x0A 0x5C) (liveState false [answered 0x00 0x00 0x00]))
    t.result = some (.ok .unit) ∧ t.sent = [[0x95, 0x5C]] := by decide +kernel

/-! ### Request frames -/

theorem test_regwrF16 : let t := after (exec (.regwrF16 2 0x0A 0x5C) (liveState false [answered 0 0 0]))
    t.result = some (.ok .unit) ∧ t.sent = [[0x95, 0x5C]] := by decide +kernel
theorem test_regrdF16 : let t := after (exec (.regrdF16 2 0x0A) (liveState false [answered 0xFF 0xFF 0]))
    t.result = some (.ok (.byte 0xFF)) ∧ t.sent = [[0x94, 0x00]] := by decide +kernel
theorem test_regwrF24 : let t := after (exec (.regwrF24 2 0x0A 0x5C 0x33) (liveState true [failed 7]))
    t.result = some (.err (.transportFailure 7)) ∧ t.sent = [[0x95, 0x5C, 0x33]] := by decide +kernel
theorem test_regrdF24 : let t := after (exec (.regrdF24 2 0x0A 0xB5) (liveState true [answered 0xC3 0x5C 0x40]))
    t.result = some (.err .integrityFailure) ∧ t.sent = [[0x94, 0x00, 0xB5]] := by decide +kernel
theorem test_frame_of_other_mode :
    refusal (exec (.regwrF24 2 0x0A 0x5C 0x33) (liveState false [])) = some .frameLengthNotOfMode := by decide
/-- R29: a frame of another chip is not sent -/
theorem test_frame_of_other_chip :
    refusal (exec (.regrdF16 3 0x0A) (liveState false [])) = some .frameChipNotOfInstance := by decide
/-- a table word placed after reset is fetched and runs -/
theorem test_fetch_word : let t := after (step (State.reset.withFetchWord 16 0x955C))
    t.sent = [[0x95, 0x5C]] ∧ t.commands = [] := by decide +kernel

/-! ### Lifecycle -/

/-- P6: strapped CRC mode and two latched-fault registers (0x02, 0x03) whose latches are set -/
theorem test_init_strapped :
    let t := after (exec (.init 2 false)
      { State.reset with
        cfg := { Config.reference with crcSrc := .strap, faultRegs := [0x02, 0x03] }
        straps := [true]
        latched := [0b1000010, 0b1000011]
        script := [answered 0x00 0x81 0x8E, answered 0x00 0x04 0x1C] })
    t.result = some (.ok .unit) ∧ t.live = true ∧ t.crcEn = true ∧ t.gpioReads = 1 ∧ t.latched = [] ∧
      t.sent = [[0x84, 0x00, 0xE2], [0x86, 0x00, 0xC8]] := by decide +kernel
/-- V-INIT-4 -/
theorem test_init_failed_handshake :
    let t := after (exec (.init 2 true)
      { State.reset with
        cfg := { Config.reference with faultRegs := [0x02] }, script := [answered 0x00 0x81 0x00] })
    t.result = some (.err .integrityFailure) ∧ t.live = false ∧ t.sent.length = 1 := by decide +kernel
/-- V-TD-1 -/
theorem test_teardown : let t := after (exec .teardown (liveState false []))
    t.result = some (.ok .unit) ∧ t.live = false ∧ t.sent = [] := by decide
/-- V-TD-2 -/
theorem test_dead_instance :
    refusal (exec (.regRead (.direct 0x0A)) (after (exec .teardown (liveState false [])))) =
      some .notLive := by decide

/-! ### Host sequences -/

/-- S7 -/
theorem test_available_delays : showDelays = "50 100 400 800 1800 3200 12800 20000 " := by decide +kernel
/-- V-DLY-1, V-DLY-3: index 3 for 800, none for 900 -/
theorem test_delay_search :
    searchFrom 800 0 delayTable = some 3 ∧ searchFrom 900 0 delayTable = none := by decide

/-- A delay attribute of a 3-bit field at bit 5 of register 8 + channel. -/
def delayAttribute : Attribute where
  name := "filter"
  shows := some fun ch => .indexed (8 + ch) 0xE0 5 delayTable
  stores := some .filterDelay
  shared := false

/-- What a host call returned, if it returned. -/
def returned {α : Type} : HostOutcome α → Option (Except ErrorKind α)
  | .next r => r.2
  | .fault _ => none
  | .refused _ => none

/-- R86, R90: index 3 in the field is shown as 800; the read's error is returned -/
theorem test_show_delay :
    ((showAttribute delayAttribute 1 (liveState false [answered 0x00 0x7F 0x00])).bind returned).map
        (·.toOption) = some (some "800") ∧
      ((showAttribute delayAttribute 1 (liveState false [failed 7])).bind returned).map (·.toOption) =
        some none := by decide +kernel
/-- R92: channels 1 and 3 of 4, 5 being none of them; and no memory -/
theorem test_setup_channels :
    (setupChannels 4 [3, 1, 5] [delayAttribute] fun _ => true).toOption.map
        (·.map (·.channel)) = some [1, 3] ∧
      (setupChannels 4 [3, 1, 5] [delayAttribute] fun n => n < 2).toOption.isNone = true := by decide

/-! ### Witnesses: the hypotheses of each obligation are met together

Named after the obligation; where it has several clauses, one witness a clause, at a boundary value of
its range. The highest register address is 31, the highest chip address 3, the highest channel 3. -/

/-- A draw in which the device takes the frame. -/
def goodDraw (b0 b1 b2 : Byte) : Draw :=
  { answer := .ok ⟨b0, b1, b2⟩, taken := true, drift := [], latch := [], readEffect := [] }

/-- A draw whose exchange fails, the device changing a register and setting a latch by itself. -/
def failDraw : Draw :=
  { answer := .fail (-5), taken := false, drift := [(0x7F, 0x10)], latch := [0x7F], readEffect := [] }

theorem witness_reference_valid : Config.reference.Valid := by decide

theorem witness_FrameDecodeEncodeRoundTrip :
    Config.reference.Valid ∧ (Instr.regwrF24 3 0x1F 0x00 0xD7).wellFormed Config.reference = true ∧
      encode Config.reference (.regwrF24 3 0x1F 0x00 0xD7) = some [0xFF, 0x00, 0xD7] ∧
      (Instr.regrdF16 0 0).wellFormed Config.reference = true := by decide +kernel

theorem witness_DecodedFrameEncodesBack :
    decodeFrame Config.reference .outbound [0xFF, 0x00] = .ok (.regwrF16 3 0x1F 0x00) ∧
      decodeFrame Config.reference .inbound [0x00, 0x5C, 0x93] = .ok (.rspR24 0x00 0x5C 0x93) := by decide

/-- the outer widths, 1 and 6, are valid -/
theorem witness_ControlByteDecodesToOneTriple :
    { Config.reference with chipAddrW := 1, regAddrMax := 63 }.Valid ∧
      { Config.reference with chipAddrW := 6, regAddrMax := 1 }.Valid ∧
      ctrl Config.reference 3 0x1F true = 0xFF := by decide

theorem witness_LinkKeyNamesOneRegister :
    chipFits Config.reference 3 = true ∧ regFits Config.reference 31 = true ∧
      linkKey Config.reference 3 31 = 127 := by decide

theorem witness_NoOtherBytesAreFrames :
    ([0x00, 0x00, 0x00, 0x00] : List Byte).length ≠ 2 ∧ ([0x94] : List Byte).length ≤ 1 ∧
      (0x94 : Byte).getLsbD 0 = false ∧ (0x01 : Byte) ≠ 0x00 := by decide

theorem witness_SingleBitFlipChangesCrc :
    Config.reference.crcPoly.getLsbD 0 = true ∧
      crc8 Config.reference 0x00 (0x5C ^^^ (1#8 <<< 0)) .inbound = 0x94 ∧
      crc8 Config.reference (0x95 ^^^ (1#8 <<< 7)) 0x5C .inbound = 0x33 ^^^ 0xB6 := by decide +kernel

/-- the intact response of V-DEC-8; bits 0 and 23 flipped are V-RD-6 and V-RD-5 -/
theorem witness_CorruptedResponseIsIntegrityFailure :
    let s := liveState true [.answered (goodDraw 0x43 0x5C 0x41)]
    s.cfg.Valid ∧ s.Ready ∧ s.crcEn = true ∧ operandAddress s.chCount (.direct 31) = .ok 31 ∧
      regValid s.cfg 31 = true ∧ s.AnswersNext (goodDraw 0x43 0x5C 0x41) ∧
      Intact s.cfg true ⟨0xC3, 0x5C, 0x41⟩ ∧
      flipBit ⟨0xC3, 0x5C, 0x41⟩ 23 = ⟨0x43, 0x5C, 0x41⟩ ∧
      flipBit ⟨0xC3, 0x5C, 0x41⟩ 11 = ⟨0xC3, 0x54, 0x41⟩ ∧
      flipBit ⟨0xC3, 0x5C, 0x41⟩ 0 = ⟨0xC3, 0x5C, 0x40⟩ := by decide +kernel

/-- both clauses of the encoders: 3 and 31 fit, 4 does not -/
theorem witness_Encoders :
    (3 < 2 ^ State.reset.cfg.chipAddrW ∧ 31 < 2 ^ (7 - State.reset.cfg.chipAddrW)) ∧
      ¬(4 < 2 ^ State.reset.cfg.chipAddrW ∧ 31 < 2 ^ (7 - State.reset.cfg.chipAddrW)) := by decide

/-- the three clauses of DEC.RESP at their shortest buffers -/
theorem witness_DecodeResponseCompletes :
    ([0x00, 0x5C] : List Byte).length < 3 ∧
      ([0x00, 0x5C] : List Byte) = 0x00 :: 0x5C :: [] ∧
      ([0x00, 0x5C, 0x93] : List Byte) = 0x00 :: 0x5C :: 0x93 :: [] := by decide

theorem witness_PureOperationsChangeOnlyTheResult :
    isPure (.crcVerify 0x00 0x5C 0x93) = true ∧ (liveState true []).cfg = State.reset.cfg ∧
      ∃ t, exec (.crcVerify 0x00 0x5C 0x93) State.reset = .next t :=
  ⟨rfl, rfl, _, rfl⟩

/-- a register operation's hypotheses: direct at the last address, banked at the last channel, an
answered and a failed exchange -/
theorem witness_RegisterOperands :
    let s := liveState true [.answered (goodDraw 0x00 0x5C 0x93)]
    let f := liveState true [.answered failDraw]
    s.cfg.Valid ∧ s.Ready ∧ operandAddress s.chCount (.direct 31) = .ok 31 ∧ 31 ≤ s.cfg.regAddrMax ∧
      operandAddress s.chCount (.banked 8 3) = .ok 11 ∧ 11 ≤ s.cfg.regAddrMax ∧
      s.AnswersNext (goodDraw 0x00 0x5C 0x93) ∧ f.Ready ∧ f.AnswersNext failDraw := by decide +kernel

/-- ReadCompletesWithTheAnswer, ReadEffectOnTheDevice: the read completes, taken and not taken -/
theorem witness_ReadEffectOnTheDevice :
    readTook true (goodDraw 0x00 0x5C 0x93) = true ∧ readTook true failDraw = false ∧
      (∃ t, exec (.regRead (.direct 31)) (liveState true [.answered (goodDraw 0x00 0x5C 0x93)]) = .next t) ∧
      ∃ t, exec (.dbgRead 0) (liveState true [.answered failDraw]) = .next t :=
  ⟨rfl, rfl, ⟨_, rfl⟩, ⟨_, rfl⟩⟩

/-- WriteCompletes, WriteStoresToOneRemoteRegister -/
theorem witness_WriteStoresToOneRemoteRegister :
    (goodDraw 0x12 0x34 0x56).taken = true ∧ failDraw.taken = false ∧
      (∃ t, exec (.regWrite (.banked 8 3) 0x5C) (liveState true [.answered (goodDraw 0x12 0x34 0x56)]) =
        .next t) ∧
      ∃ t, exec (.dbgWrite 31 0x5C) (liveState false [.answered failDraw]) = .next t :=
  ⟨rfl, rfl, ⟨_, rfl⟩, ⟨_, rfl⟩⟩

theorem witness_WriteResponseNotExamined :
    (liveState true [.answered (goodDraw 0x12 0x34 0x56)]).script =
        .answered (goodDraw 0x12 0x34 0x56) :: [] ∧
      (goodDraw 0x12 0x34 0x56).answer = .ok ⟨0x12, 0x34, 0x56⟩ ∧
      (after (exec (.regWrite (.direct 0x0A) 0x5C)
        (liveState true [.answered (goodDraw 0x12 0x34 0x56)]))).result ≠
          some (.err .invalidArgument) := by decide +kernel

/-- both clauses: a read that delivers a byte, a read that fails -/
theorem witness_UpdateIsReadThenWrite :
    (after (exec (.regRead (.direct 0x0A)) (liveState true [answered 0x00 0xA5 0x72]))).result =
        some (.ok (.byte 0xA5)) ∧
      (after (exec (.regRead (.direct 0x0A)) (liveState true [answered 0x00 0xA5 0x73]))).result =
        some (.err .integrityFailure) ∧
      ∃ t, exec (.regRead (.direct 0x0A)) (liveState true [answered 0x00 0xA5 0x72]) = .next t :=
  ⟨by decide +kernel, by decide +kernel, _, rfl⟩

/-- P3 part b: the device sets bit 4 between the two exchanges -/
theorem witness_UpdateCompletesInTwoExchanges :
    let d₂ : Draw := { goodDraw 0x00 0x00 0x00 with drift := [(0x4A, 0xB5)] }
    let s := liveState false [.answered (goodDraw 0x00 0xA5 0x00), .answered d₂]
    s.cfg.Valid ∧ s.Ready ∧ operandAddress s.chCount (.direct 0x0A) = .ok 0x0A ∧
      0x0A ≤ s.cfg.regAddrMax ∧ s.script = .answered (goodDraw 0x00 0xA5 0x00) :: .answered d₂ :: [] ∧
      Intact s.cfg s.crcEn ⟨0x00, 0xA5, 0x00⟩ ∧ d₂.taken = true ∧
      memoryRead (after (exec (.regUpdate (.direct 0x0A) 0x0C 0x08) s)).remote 0x4A = some 0xA9 := by
  decide +kernel

theorem witness_InvalidAddressTouchesNothing :
    let s := liveState true []
    s.Ready ∧ s.phase = .idle ∧ operandAddress s.chCount (.direct 32) = .ok 32 ∧
      operandAddress s.chCount (.banked 29 3) = .ok 32 ∧ s.cfg.regAddrMax < 32 := by decide

/-- both clauses, at channels 4 and 3 of 4 -/
theorem witness_BankedOperandChecksTheChannelFirst :
    let s := liveState true []
    s.Ready ∧ s.phase = .idle ∧ s.chCount ≤ 4 ∧ 3 < s.chCount := by decide

theorem witness_ExchangeCountsPerOperation :
    (∃ t, exec (.regWrite (.direct 32) 0x00) (liveState false []) = .next t) ∧
      (∃ r, exec (.regRead (.direct 31)) (liveState false [answered 0 0 0]) = .next r) ∧
      ∃ t, exec (.regUpdate (.direct 31) 0xFF 0x00) (liveState false [answered 0 0 0]) = .next t :=
  ⟨⟨_, rfl⟩, ⟨_, rfl⟩, ⟨_, rfl⟩⟩

/-- RequestFramesComplete and FrameRowIsItsOperation, both modes, at the highest fields; the CRC byte
of R48 and another one, a read that took effect and one that did not -/
theorem witness_RequestFrames :
    let s := { liveState false [.answered failDraw] with chipAddr := 3 }
    let c := { liveState true [.answered (goodDraw 0x00 0x5C 0x93)] with chipAddr := 3 }
    s.cfg.Valid ∧ s.Ready ∧ c.Ready ∧ 31 ≤ s.cfg.regAddrMax ∧ s.AnswersNext failDraw ∧
      c.AnswersNext (goodDraw 0x00 0x5C 0x93) ∧ s.crcEn = false ∧ c.crcEn = true ∧
      chipFits s.cfg s.chipAddr = true ∧
      crc8 c.cfg (ctrl c.cfg c.chipAddr 31 false) 0x00 .outbound ≠ 0x00 ∧
      readTook false { goodDraw 0x00 0x5C 0x93 with taken := false } = false ∧
      readTook false (goodDraw 0x00 0x5C 0x93) = true := by decide +kernel

/-- the four clauses: a field too wide, another chip, the other mode, and, with 30 as the highest
address, 31 -/
theorem witness_FramesNotOfTheInstance :
    let s := liveState true []
    let n : State := { liveState false [] with cfg := { Config.reference with regAddrMax := 30 } }
    s.Ready ∧ s.phase = .idle ∧ ¬(4 < 2 ^ s.cfg.chipAddrW ∧ 0 < 2 ^ (7 - s.cfg.chipAddrW)) ∧
      3 < 2 ^ s.cfg.chipAddrW ∧ 3 ≠ s.chipAddr ∧ 2 = s.chipAddr ∧ s.crcEn ≠ false ∧ n.Ready ∧
      n.crcEn = false ∧ n.cfg.regAddrMax < 31 ∧ 31 < 2 ^ (7 - n.cfg.chipAddrW) := by decide

/-- both sources of the mode; two handshake reads, at the lowest and the highest address -/
theorem witness_InitCreatesTheInstance :
    let cfg : Config := { Config.reference with crcSrc := .strap, faultRegs := [0, 31] }
    let s : State :=
      { State.resetWith cfg with
        straps := [true], script := [goodDraw 0x00 0x81 0x8E, goodDraw 0x00 0x04 0x1C].map .answered ++ [] }
    s.cfg.Valid ∧ s.live = false ∧ s.busy = false ∧ 3 < 2 ^ s.cfg.chipAddrW ∧
      s.cfg.crcSrc = .strap ∧ true = s.nextStrap ∧
      [goodDraw 0x00 0x81 0x8E, goodDraw 0x00 0x04 0x1C].length = s.cfg.faultRegs.length ∧
      Intact s.cfg true ⟨0x00, 0x81, 0x8E⟩ ∧ Intact s.cfg true ⟨0x00, 0x04, 0x1C⟩ ∧
      State.reset.cfg.crcSrc = .config ∧ State.reset.cfg.faultRegs.length = ([] : List Draw).length := by
  decide +kernel

/-- both causes -/
theorem witness_InitRejectsBadAddresses :
    State.reset.live = false ∧ State.reset.busy = false ∧ State.reset.phase = .idle ∧
      2 ^ State.reset.cfg.chipAddrW ≤ 4 ∧
      ∃ a ∈ { Config.reference with faultRegs := [0, 32] }.faultRegs, Config.reference.regAddrMax < a :=
  ⟨rfl, rfl, rfl, by decide, 32, by decide, by decide⟩

/-- both ends -/
theorem witness_InitEndsLiveOrWithoutInstance :
    (∃ t, exec (.init 3 true) .reset = .next t) ∧ ∃ t, exec (.init 4 true) .reset = .next t :=
  ⟨⟨_, rfl⟩, ⟨_, rfl⟩⟩

/-- the second of two handshake reads fails its check, the first and the last address -/
theorem witness_InitStopsAtTheFailingHandshakeRead :
    let cfg : Config := { Config.reference with faultRegs := [0, 31] }
    let s : State :=
      { State.resetWith cfg with
        script := [goodDraw 0x00 0x81 0x8E].map .answered ++ .answered (goodDraw 0x00 0x04 0x1D) :: [] }
    s.cfg.Valid ∧ s.live = false ∧ s.busy = false ∧ 3 < 2 ^ s.cfg.chipAddrW ∧ s.cfg.crcSrc = .config ∧
      s.cfg.faultRegs[[goodDraw 0x00 0x81 0x8E].length]? = some 31 ∧
      Intact s.cfg true ⟨0x00, 0x81, 0x8E⟩ ∧
      readResult s.cfg true (goodDraw 0x00 0x04 0x1D).answer = .err .integrityFailure ∧
      readTook true (goodDraw 0x00 0x04 0x1D) = true := by decide +kernel

theorem witness_TeardownDestroysTheInstance : (liveState true []).Ready := by decide

/-- the four clauses -/
theorem witness_InstanceOperationsNeedAFreeInstance :
    needsInstance .teardown = true ∧ State.reset.live = false ∧
      { liveState true [] with busy := true }.live = true ∧
      { liveState true [] with busy := true }.busy = true ∧
      { State.reset with busy := true }.live = false := by decide

/-- a command of each kind -/
theorem witness_StepRunsTheNextCommand :
    decodeFrame State.reset.cfg .outbound [0x95, 0x5C] = .ok (.regwrF16 2 0x0A 0x5C) ∧
      decodeFrame State.reset.cfg .outbound [0x94, 0x01] = .error .readDataNotZero ∧
      { State.reset with commands := [.callback 31] }.commands = .callback 31 :: [] ∧
      { State.reset with commands := [.op .teardown] }.commands = .op .teardown :: [] := by decide

theorem witness_StepKeepsTheInvariant :
    { liveState true [answered 0x00 0x5C 0x93] with commands := [.op (.regRead (.direct 31))] }.Inv ∧
      ∃ t, step { liveState true [answered 0x00 0x5C 0x93] with
        commands := [.op (.regRead (.direct 31))] } = .next t :=
  ⟨by decide, _, rfl⟩

/-- the three clauses on `LIVE`: it stays, it begins, it ends -/
theorem witness_ConfigurationFixedWhileLive :
    (after (exec (.regRead (.direct 32)) (liveState true []))).live = true ∧
      (after (exec (.init 2 true) .reset)).live = true ∧
      (after (exec .teardown (liveState true []))).live = false := by decide

theorem witness_InvalidArgumentLeavesStateUnchanged :
    (liveState true []).busy = false ∧ (liveState true []).phase = .idle ∧
      (after (exec (.regRead (.direct 32)) (liveState true []))).result =
        some (.err .invalidArgument) := by decide

theorem witness_IntegrityFailureOnlyFromCheckedReads :
    (after (exec (.dbgRead 0x0A) (liveState true [answered 0xC3 0x54 0x41]))).result =
      some (.err .integrityFailure) := by decide +kernel

/-- an operation without errors, and each kind: an address out of range, an exchange that failed -/
theorem witness_ErrorKindsOfTheOperations :
    (∃ t, exec (.encRead 3 31 true) .reset = .next t) ∧
      (after (exec (.regRead (.direct 32)) (liveState true []))).result =
        some (.err .invalidArgument) ∧
      (after (exec (.regWrite (.direct 31) 0x00) (liveState true [failed 7]))).result =
        some (.err (.transportFailure 7)) ∧
      (liveState true [.answered failDraw]).drawAt 0 = some failDraw :=
  ⟨⟨_, rfl⟩, by decide, by decide +kernel, rfl⟩

theorem witness_FrameBufferCarriesNothing :
    SameButFrameBuffer State.reset { State.reset with fb := ⟨0x01, 0x02, 0x03⟩ } := rfl

/-- an operation, INIT with the mode off, and a pure operation -/
theorem witness_ThirdBufferByteUntouchedWithCrcOff :
    (liveState false []).crcEn = false ∧
      (∃ t, exec (.regWrite (.direct 0) 0xFF) (liveState false [answered 1 2 3]) = .next t) ∧
      State.reset.initMode false = false ∧ (∃ t, exec (.init 3 false) .reset = .next t) ∧
      needsInstance (.decResp [] true) = false ∧ ∃ t, exec (.decResp [] true) .reset = .next t :=
  ⟨rfl, ⟨_, rfl⟩, rfl, ⟨_, rfl⟩, rfl, ⟨_, rfl⟩⟩

/-- an operation on an instance, and INIT -/
theorem witness_EveryFrameCarriesTheInstancesChipAddress :
    (liveState false []).cfg.Valid ∧
      chipFits (liveState false []).cfg (liveState false []).chipAddr = true ∧
      (∃ t, exec (.regrdF16 2 31) (liveState false [answered 1 2 3]) = .next t) ∧
      State.reset.live = false ∧ (∃ t, exec (.init 3 false) .reset = .next t) ∧
      State.reset.initMode false = false :=
  ⟨by decide, rfl, ⟨_, rfl⟩, rfl, ⟨_, rfl⟩, rfl⟩

/-- a channel out of range, an address out of range, and at the last address an update whose read
delivers a byte and one whose read fails -/
theorem witness_OperationsSendOnlyTheirOwnFrames :
    let s := liveState false [answered 0 0xA5 0, answered 0 0 0]
    let f := liveState false [failed 7]
    operandAddress s.chCount (.banked 0 4) = .error .invalidArgument ∧
      operandAddress s.chCount (.banked 29 3) = .ok 32 ∧ s.cfg.regAddrMax < 32 ∧
      31 ≤ s.cfg.regAddrMax ∧
      (∃ t, exec (.regUpdate (.direct 31) 0xFF 0x00) s = .next t) ∧
      (s.drawAt 0).map (fun d => readResult s.cfg false d.answer) = some (.ok (.byte 0xA5)) ∧
      (∃ t, exec (.regUpdate (.direct 31) 0xFF 0x00) f = .next t) ∧
      (f.drawAt 0).map (fun d => readResult f.cfg false d.answer) =
        some (.err (.transportFailure 7)) ∧
      (∃ t, exec (.regWrite (.banked 0 4) 0x00) s = .next t) ∧
      ∃ t, exec (.regRead (.banked 29 3)) s = .next t :=
  ⟨rfl, rfl, by decide, by decide, ⟨_, rfl⟩, by decide, ⟨_, rfl⟩, by decide, ⟨_, rfl⟩, ⟨_, rfl⟩⟩

/-- an operation, a request frame, INIT and a pure function, the script used up and not -/
theorem witness_OperationsCompleteWhenTheTransportAnswers :
    (liveState true []).AlwaysAnswers ∧ (liveState true [answered 0 0 0]).AlwaysAnswers ∧
      (Instr.regUpdate (.direct 31) 0xFF 0x00).wellFormed Config.reference = true ∧
      (Instr.regrdF24 2 0x0A 0xB5).wellFormed Config.reference = true ∧ (liveState true []).Ready ∧
      encode Config.reference (.regrdF24 2 0x0A 0xB5) = some [0x94, 0x00, 0xB5] ∧ flen true = 3 ∧
      2 = (liveState true []).chipAddr ∧
      State.reset.live = false ∧ State.reset.busy = false := by decide +kernel

/-- both clauses -/
theorem witness_StuckOnlyOnAnUnansweredExchange :
    (liveState true [.never]).Ready ∧ (liveState true [.never]).script = .never :: [] ∧
      exec (.dbgRead 0) (liveState true [.never]) = .fault .exchangeNeverReturned :=
  ⟨by decide, rfl, rfl⟩

/-- host parameters: every field at bit 5 of register 8 + channel, four codes -/
def hostMap : HostMap where
  funcReg := fun ch => 8 + ch
  funcMask := fun _ => 0xE0
  funcOff := fun _ => 5
  funcHiz := [0x07]
  clampReg := fun _ => 0x04
  clampMask := fun _ => 0x03
  clampPp := 0x01
  clReg := fun _ => 0x04
  clMask := fun _ => 0xE0
  clOff := fun _ => 5
  clCodes := [0, 1, 2, 3]
  cntEnReg := fun _ => 0x10
  cntEnMask := fun ch => 0x01 <<< ch
  cntStop := 0x00
  cntLoReg := fun ch => 0x12 + 2 * ch
  cntHiReg := fun ch => 0x13 + 2 * ch
  fbpReg := fun _ => 0x05
  fbpMask := fun _ => 0x80
  fdlyReg := fun ch => 8 + ch
  fdlyMask := fun _ => 0xE0
  fdlyOff := fun _ => 5

/-- R85, R91: 800 has index 3, which goes to bits 7 to 5 of the delay register of channel 1 -/
theorem test_store_delay :
    (storeAttribute (fun _ => some 800) hostMap 4 delayAttribute 1 "800").map (·.toOption) =
      some (some [.regUpdate (.direct 9) 0xE0 0x60]) := by decide

/-- the clauses at the last channel and offset, the last table entry, a value outside, channel 4 -/
theorem witness_DelaySelectReadsBack :
    3 < 4 ∧ hostMap.fdlyOff 3 ≤ 5 ∧ hostMap.fdlyMask 3 = 0x07#8 <<< hostMap.fdlyOff 3 ∧
      delayTable[7]? = some 20000 ∧ 900 ∉ delayTable ∧ 4 ≤ 4 := by decide

/-- a read that returns a byte and one that returns an error; a field, an index inside its table and one
outside, and an available-values show; a channel out of range; a shared attribute -/
theorem witness_ShowRendersWhatTheReadReturns :
    let a : Attribute :=
      { delayAttribute with
        shows := some fun ch =>
          if ch = 3 then .field 31 0xFF 0 else if ch = 2 then .indexed 31 0xE0 5 delayTable
          else if ch = 1 then .indexed 31 0xE0 5 [50, 100] else .available [50] }
    let s := liveState false [answered 0x00 0x7F 0x00]
    a.shared = false ∧ 3 < s.chCount ∧ s.chCount ≤ 4 ∧ { a with shared := true }.shared = true ∧
      (after (exec (.regRead (.direct 31)) s)).result = some (.ok (.byte 0x7F)) ∧
      delayTable[((0x7F &&& 0xE0 : Byte) >>> 5).toNat]? = some 800 ∧
      [50, 100][((0x7F &&& 0xE0 : Byte) >>> 5).toNat]? = none ∧
      (after (exec (.regRead (.direct 31)) (liveState false [failed 7]))).result =
        some (.err (.transportFailure 7)) ∧
      (∃ t, exec (.regRead (.direct 31)) s = .next t) ∧
      ∃ source, a.shows = some source ∧ source 3 = .field 31 0xFF 0 ∧
        source 2 = .indexed 31 0xE0 5 delayTable ∧ source 0 = .available [50] :=
  ⟨rfl, by decide, by decide, rfl, by decide, by decide, by decide, by decide, ⟨_, rfl⟩,
    ⟨_, rfl, rfl, rfl, rfl⟩⟩

/-- for each target an integer at the end of its range and one beyond: 7 is kept whole by the 3-bit
function field, 8 is cut by it and 0x100 is no code; 3 is a current-limit code, 4 is none; 0xFFFF and
0x10000; 1 and 2; the last delay and one outside; a string that is no integer, channels 3 and 4 of 4, a
shared attribute -/
theorem witness_StoreForwardsOrRejects :
    let gives (target : StoreTarget) (v : Option Int) (ch : Nat) :=
      ((storeAttribute (fun _ => v) hostMap 4 { delayAttribute with stores := some target } ch "").map
        (·.toOption.isSome)) = some true
    let keeps (code : Byte) : Prop := (((code <<< 5) &&& (0xE0 : Byte)) &&& 0xE0) >>> 5 = code
    gives .function (some 7) 3 ∧ keeps 7 ∧ ¬gives .function (some 8) 3 ∧ ¬keeps 8 ∧
      ¬gives .function (some 0x100) 3 ∧
      gives .currentLimit (some 3) 3 ∧ 3 ∈ hostMap.clCodes ∧ ¬gives .currentLimit (some 4) 3 ∧
      keeps 4 ∧ (4 : Byte) ∉ hostMap.clCodes ∧
      gives .counter (some 0xFFFF) 3 ∧ ((0xFFFF : BitVec 16).toNat : Int) = 0xFFFF ∧
      ¬gives .counter (some 0x10000) 3 ∧
      gives .filterBypass (some 1) 3 ∧ gives .filterBypass (some 0) 3 ∧
      ¬gives .filterBypass (some 2) 3 ∧
      gives .filterDelay (some 20000) 3 ∧ delayTable[7]? = some 20000 ∧
      ¬gives .filterDelay (some 900) 3 ∧ 900 ∉ delayTable ∧ ¬gives .filterDelay (some (-1)) 3 ∧
      ¬gives .counter none 3 ∧ ¬gives .counter (some 0) 4 ∧
      { delayAttribute with shared := true }.shared = true := by decide +kernel

/-- both clauses -/
theorem witness_SetupBindsTheEnabledChannels :
    ((List.range 4).filter (fun ch => decide (ch ∈ [3, 1, 5]))).length = 2 ∧
      (fun n : Nat => decide (n < 3)) 2 = true ∧ (fun n : Nat => decide (n < 2)) 2 = false := by decide

/-- a high-impedance function; an operation of a sequence that fails and one that does not -/
theorem witness_HostSequencesKeepTheirOrder :
    (0x07 : Byte) ∈ hostMap.funcHiz ∧
      (after (exec (.regWrite (.direct 32) 0x00) (liveState false []))).result =
        some (.err .invalidArgument) ∧
      (after (exec (.regWrite (.direct 31) 0x00) (liveState false [answered 0 0 0]))).result =
        some (.ok .unit) := by decide

/-- the map's registers are ones the device has; a sequence of two operations that ends -/
theorem witness_ValidMapNeverRejectsPartway :
    hostMap.Valid Config.reference 4 ∧
      (setFunction hostMap 4 3 0x07).toOption.map List.length = some 2 ∧
      ∃ t, runSequence [.regUpdate (.direct 4) 0x03 0x01, .regUpdate (.direct 11) 0xE0 0xE0]
        (liveState false [answered 0 0 0, answered 0 0 0, answered 0 0 0, answered 0 0 0]) = .next t :=
  ⟨by decide, by decide, _, rfl⟩

end Sys2Proof.Tests
end

section
/-! PROOFS. The invariant and the steps (R8, R15, R17, R19, R20, R45, R51, R54).

Inside an operation the invariant holds but for `BUSY` and `PHASE`: that much is carried through it
(`State.Sound`), and its end sets these two to rest. -/

namespace Sys2Proof.Machine

/-! ### Frames built from fields are legal -/

/-- The R/W bit is bit 0 of a control byte (R47, R52). -/
theorem splitCtrl_ctrl_rw {cfg : Config} (h : cfg.Valid) (chip reg : Nat) (rw : Bool) :
    (splitCtrl cfg (ctrl cfg chip reg rw)).rw = rw :=
  ctrl_getLsbD_zero h chip reg rw

/-- A register address that fits its field is read back from the control byte, whatever the chip
address (R47, R52). -/
theorem splitCtrl_ctrl_reg {cfg : Config} (h : cfg.Valid) (chip : Nat) {reg : Nat} (rw : Bool)
    (hreg : reg < 2 ^ cfg.regAddrW) : (splitCtrl cfg (ctrl cfg chip reg rw)).reg = reg := by
  obtain ⟨hlo, -⟩ := h
  have hw : cfg.regAddrW = 7 - cfg.chipAddrW := rfl
  have hrw (i : Nat) : rw.toNat.testBit (1 + i) = false := by
    rw [Nat.add_comm, Nat.testBit_succ]
    cases rw <;> simp
  refine Nat.eq_of_testBit_eq fun i => ?_
  simp only [splitCtrl, ctrl, BitVec.toNat_ofNat, Nat.testBit_mod_two_pow, Nat.testBit_shiftRight,
    Nat.testBit_or, Nat.testBit_shiftLeft, hrw, Bool.or_false]
  by_cases hi : i < cfg.regAddrW
  · have hchip : ¬8 - cfg.chipAddrW ≤ 1 + i := by omega
    have hbyte : 1 + i < 8 := by omega
    simp [hi, hchip, hbyte]
  · have hreg' : reg < 2 ^ i :=
      lt_of_lt_of_le hreg (Nat.pow_le_pow_right Nat.two_pos (Nat.le_of_not_lt hi))
    simp [hi, Nat.testBit_lt_two_pow hreg']

/-- A frame of either mode whose control byte is made for a valid register is legal, if it is a write or
its data byte is zero; its CRC byte does not matter (R45, R51, R54). -/
theorem frameLegal_ctrl {cfg : Config} (h : cfg.Valid) (chip : Nat) {reg : Nat} {rw : Bool} {d : Byte}
    (k : Byte) (c : Bool) (hreg : regValid cfg reg = true) (hd : rw = true ∨ d = 0x00) :
    frameLegal cfg (fbFrame { b0 := ctrl cfg chip reg rw, b1 := d, b2 := k } c) = true := by
  have ⟨_, _, hmax, _⟩ := h
  have hfits : reg < 2 ^ cfg.regAddrW := lt_of_le_of_lt (of_decide_eq_true hreg) hmax
  have hr := splitCtrl_ctrl_reg h chip rw hfits
  have hw := splitCtrl_ctrl_rw h chip reg rw
  cases c <;> simpa [frameLegal, fbFrame, hr, hw, hreg] using hd

/-! ### The part of the invariant that holds inside an operation too -/

/-- The invariant but for `BUSY` and `PHASE`: it would hold if the state were at rest. -/
def State.Sound (s : State) : Prop := State.Inv { s with busy := false, phase := .idle }

/-- A body that returns, with whatever result, leaves a sound state. -/
def SoundAfter {α : Type} (o : Option (State × α)) : Prop := ∀ p ∈ o, p.1.Sound

variable {s t : State}

theorem State.Sound.valid (h : s.Sound) : s.cfg.Valid := h.1

theorem State.Inv.sound (h : s.Inv) : s.Sound := by
  obtain ⟨hv, hm, hl, -, -, hc, hn, hs⟩ := h
  exact ⟨hv, hm, hl, rfl, rfl, hc, hn, hs⟩

/-- Soundness looks at neither `BUSY` nor `PHASE`. -/
theorem State.Sound.withBusyPhase (h : s.Sound) (busy : Bool) (phase : Phase) :
    State.Sound { s with busy := busy, phase := phase } := h

/-- The return to the caller, with a value or an error, puts the machine at rest (R19, R20, R107). -/
theorem State.Sound.conclude_inv (h : s.Sound) (r : Result) : (s.conclude r).Inv := h

/-- With `LIVE` = 0 nothing is asked of the chip address (R26). -/
theorem State.Sound.dissolve (h : s.Sound) : s.dissolve.Sound := by
  obtain ⟨hv, hm, hl, hb, hp, -, hn, hs⟩ := h
  exact ⟨hv, hm, hl, hb, hp, fun hlive => absurd hlive Bool.false_ne_true, hn, hs⟩

/-- INIT has checked the chip address it sets up (R94). -/
theorem State.Sound.create (h : s.Sound) {chip : Nat} (crcEn : Bool)
    (hchip : chipFits s.cfg chip = true) : (s.create chip crcEn).Sound := by
  obtain ⟨hv, hm, hl, -, -, -, hn, hs⟩ := h
  unfold State.create State.afterInitMode
  split <;> exact ⟨hv, hm, hl, rfl, rfl, fun _ => hchip, hn, hs⟩

/-- An exchange of a legal frame. -/
theorem State.Sound.exchanged (h : s.Sound) {src : FrameBuffer} (own : Bool) (d : Draw)
    (hf : frameLegal s.cfg (fbFrame src s.crcEn) = true) :
    ((s.load src).exchanged own d).Sound := by
  obtain ⟨hv, hm, hl, -, -, hc, hn, hs⟩ := h
  obtain ⟨hremote, hlatched⟩ := State.exchanged_wf (s.load src) own d
  refine ⟨hv, hremote hm, hlatched hl, rfl, rfl, hc, hn, fun f hmem => ?_⟩
  rcases List.mem_append.mp hmem with hold | hnew
  · exact hs f hold
  · have hsrc : f = fbFrame src s.crcEn :=
      (List.mem_singleton.mp hnew).trans (fbFrame_fbStore s.fb src s.crcEn)
    exact hsrc ▸ hf

/-! ### Bodies of operations -/

theorem soundAfter_some {α : Type} {r : α} (h : s.Sound) : SoundAfter (some (s, r)) := by
  rintro _ ⟨⟩
  exact h

/-- Turning what a body came to into another kind of value leaves its state. -/
theorem SoundAfter.map {α β : Type} {o : Option (State × α)} {f : State × α → State × β}
    (h : SoundAfter o) (hf : ∀ p, (f p).1 = p.1) : SoundAfter (o.map f) := by
  intro q hq
  obtain ⟨p, hp, rfl⟩ := Option.map_eq_some_iff.mp hq
  exact hf p ▸ h p hp

theorem State.Sound.sendWrite (h : s.Sound) {src : FrameBuffer} (own : Bool)
    (hf : frameLegal s.cfg (fbFrame src s.crcEn) = true) : SoundAfter (s.sendWrite src own) := by
  intro p hp
  rw [State.sendWrite_eq] at hp
  obtain ⟨d, -, rfl⟩ := Option.map_eq_some_iff.mp hp
  exact h.exchanged own d hf

theorem State.Sound.sendRead (h : s.Sound) {src : FrameBuffer} (own : Bool)
    (hf : frameLegal s.cfg (fbFrame src s.crcEn) = true) : SoundAfter (s.sendRead src own) := by
  intro p hp
  rw [State.sendRead_eq] at hp
  obtain ⟨d, -, rfl⟩ := Option.map_eq_some_iff.mp hp
  exact (h.exchanged own d hf).withBusyPhase _ _

theorem State.Sound.readRegister (h : s.Sound) (reg : Nat) : SoundAfter (s.readRegister reg) := by
  cases hv : regValid s.cfg reg with
  | false => exact State.readRegister_invalid hv ▸ soundAfter_some h
  | true =>
    rw [State.readRegister_valid hv]
    exact h.sendRead true (frameLegal_ctrl h.valid s.chipAddr _ s.crcEn hv (.inr rfl))

theorem State.Sound.writeRegister (h : s.Sound) (reg : Nat) (data : Byte) :
    SoundAfter (s.writeRegister reg data) := by
  cases hv : regValid s.cfg reg with
  | false => exact State.writeRegister_invalid hv ▸ soundAfter_some h
  | true =>
    rw [State.writeRegister_valid hv]
    exact h.sendWrite true (frameLegal_ctrl h.valid s.chipAddr _ s.crcEn hv (.inl rfl))

theorem State.Sound.updateRegister (h : s.Sound) (reg : Nat) (mask value : Byte) :
    SoundAfter (s.updateRegister reg mask value) := by
  have hread := h.readRegister reg
  unfold State.updateRegister
  split
  · exact fun _ hp => nomatch hp
  next hr => exact soundAfter_some (hread _ hr)
  next hr => exact (hread _ hr).writeRegister reg _

theorem State.Sound.handshake (h : s.Sound) (regs : List Nat) : SoundAfter (s.handshake regs) := by
  induction regs generalizing s with
  | nil => exact soundAfter_some h
  | cons a rest ih =>
    have hread := h.readRegister a
    unfold State.handshake
    split
    · exact fun _ hp => nomatch hp
    next hr => exact soundAfter_some (hread _ hr)
    next hr => exact ih (hread _ hr)

theorem State.Sound.atOperand {α : Type} (h : s.Sound) (op : RegOperand)
    {body : Nat → Option (State × Except ErrorKind α)} (hbody : ∀ a, SoundAfter (body a)) :
    SoundAfter (s.atOperand op body) := by
  unfold State.atOperand
  split
  · exact soundAfter_some h
  · exact hbody _

/-! ### Instructions -/

/-- A pure function at rest leaves the machine at rest (R69). -/
theorem State.Inv.answerPure (h : s.Inv) (r : Result) : (s.answerPure r).Inv := h

/-- An operation that requires `LIVE` = 1 keeps the invariant if its body, entered soundly, ends
soundly. -/
theorem State.Inv.onInstance {body : State → Option (State × Except ErrorKind Value)} (h : s.Inv)
    (hbody : ∀ u : State, u.Sound → SoundAfter (body u)) (hn : s.onInstance body = .next t) :
    t.Inv := by
  obtain ⟨-, s', r, hb, rfl⟩ := State.onInstance_next hn
  exact (hbody _ (h.sound.withBusyPhase true .check) _ hb).conclude_inv _

/-- A request frame keeps the invariant if its body does so on a valid register address. -/
theorem State.Inv.onFrame {body : State → Option (State × Except ErrorKind Value)} {mode : Bool}
    {chip reg : Nat} (h : s.Inv)
    (hbody : ∀ u : State, u.Sound → regValid u.cfg reg = true → SoundAfter (body u))
    (hn : s.onFrame mode chip reg body = .next t) : t.Inv := by
  obtain ⟨-, -, -, -, -, s', r, hb, rfl⟩ := State.onFrame_next hn
  refine State.Sound.conclude_inv ?_ _
  split at hb
  next hv => exact hbody _ (h.sound.withBusyPhase true .check) hv _ hb
  · exact soundAfter_some (h.sound.withBusyPhase true .check) _ hb

theorem State.Inv.onWriteFrame {mode : Bool} {chip reg : Nat} {data crc : Byte} (h : s.Inv)
    (hn : s.onWriteFrame mode chip reg data crc = .next t) : t.Inv := by
  refine h.onFrame (fun u hu hv => ?_) hn
  exact (hu.sendWrite _ (frameLegal_ctrl hu.valid chip crc u.crcEn hv (.inl rfl))).map fun _ => rfl

theorem State.Inv.onReadFrame {mode : Bool} {chip reg : Nat} {crc : Byte} (h : s.Inv)
    (hn : s.onReadFrame mode chip reg crc = .next t) : t.Inv := by
  refine h.onFrame (fun u hu hv => ?_) hn
  exact (hu.sendRead _ (frameLegal_ctrl hu.valid chip crc u.crcEn hv (.inr rfl))).map fun _ => rfl

/-- An encoder answers as a pure function or is refused (R65, R66). -/
theorem State.Inv.answerIf {c : Bool} {r : Result} {e : Refusal} (h : s.Inv)
    (hn : (if c then .next (s.answerPure r) else .refused e : StepOutcome) = .next t) : t.Inv := by
  cases c with
  | false => cases hn
  | true =>
    cases hn
    exact h.answerPure r

/-- INIT ends with `LIVE` = 1 and a chip address it has checked, or with `LIVE` = 0 (R94). -/
theorem execInit_keeps_inv {chip : Nat} {crcEn : Bool} (h : s.Inv)
    (hn : execInit chip crcEn s = .next t) : t.Inv := by
  unfold execInit at hn
  split_ifs at hn with hlive hbusy hchip hregs
  · cases hn
    exact h.sound.conclude_inv _
  · cases hn
    exact h.sound.conclude_inv _
  · have hcreated := h.sound.create crcEn (chip := chip) (by simpa using hchip)
    have hshaken := hcreated.handshake s.cfg.faultRegs
    cases hr : (s.create chip crcEn).handshake s.cfg.faultRegs with
    | none => simp [hr, finishInit] at hn
    | some p =>
      obtain ⟨u, r⟩ := p
      have hu : u.Sound := hshaken _ hr
      rw [hr] at hn
      cases r with
      | ok _ =>
        cases hn
        exact hu.conclude_inv _
      | error k =>
        cases hn
        exact hu.dissolve.conclude_inv _

/-- Every instruction keeps the invariant. -/
theorem exec_keeps_inv (h : s.Inv) (i : Instr) (hn : exec i s = .next t) : t.Inv := by
  cases i with
  | regwrF16 chip reg data => exact h.onWriteFrame hn
  | regrdF16 chip reg => exact h.onReadFrame hn
  | regwrF24 chip reg data crc => exact h.onWriteFrame hn
  | regrdF24 chip reg crc => exact h.onReadFrame hn
  | rspR16 rx0 rdata =>
    cases hn
    exact h.answerPure _
  | rspR24 rx0 rdata rcrc =>
    cases hn
    exact h.answerPure _
  | crcCompute b0 b1 dir =>
    cases hn
    exact h.answerPure _
  | crcVerify b0 b1 expected =>
    cases hn
    exact h.answerPure _
  | encWrite chip reg data crcEnabled => exact h.answerIf hn
  | encRead chip reg crcEnabled => exact h.answerIf hn
  | decResp f crcEnabled =>
    cases hn
    exact h.answerPure _
  | regRead op =>
    exact h.onInstance (fun u hu => (hu.atOperand op hu.readRegister).map fun _ => rfl) hn
  | regWrite op data =>
    exact h.onInstance
      (fun u hu => (hu.atOperand op fun a => hu.writeRegister a data).map fun _ => rfl) hn
  | regUpdate op mask value =>
    exact h.onInstance
      (fun u hu => (hu.atOperand op fun a => hu.updateRegister a mask value).map fun _ => rfl) hn
  | dbgRead addr => exact h.onInstance (fun u hu => (hu.readRegister addr).map fun _ => rfl) hn
  | dbgWrite addr val =>
    exact h.onInstance (fun u hu => (hu.writeRegister addr val).map fun _ => rfl) hn
  | init chip crcEn => exact execInit_keeps_inv h hn
  | teardown =>
    have hn' : execTeardown s = .next t := hn
    refine h.onInstance (fun u hu => ?_) hn'
    exact soundAfter_some hu.dissolve

/-! ### Steps -/

/-- What a step that goes on can be: idling, or the run of the oldest command's instruction (R20, R40). -/
theorem step_next (hn : step s = .next t) :
    (s.commands = [] ∧ t = s) ∨
    ∃ c rest i, s.commands = c :: rest ∧ c.instr s.cfg = .ok i ∧
      exec i { s with commands := rest } = .next t := by
  unfold step State.fetch at hn
  cases hc : s.commands with
  | nil =>
    simp only [hc] at hn
    cases hn
    exact .inl ⟨rfl, rfl⟩
  | cons c rest =>
    simp only [hc] at hn
    cases hi : c.instr s.cfg with
    | error e => simp [hi] at hn
    | ok i =>
      simp only [hi] at hn
      exact .inr ⟨c, rest, i, rfl, hi, hn⟩

/-- Settles O40: the invariant does not speak of the command stream, and every instruction keeps it. -/
theorem stepKeepsTheInvariant : Obligations.StepKeepsTheInvariant := by
  intro s t h hn
  rcases step_next hn with ⟨-, rfl⟩ | ⟨c, rest, i, -, -, hexec⟩
  · exact h
  · have hrest : State.Inv { s with commands := rest } := h
    exact exec_keeps_inv hrest i hexec

end Sys2Proof.Machine
end

section
/-! PROOFS. How an instruction that goes on can end, said once, and what that keeps: the configuration
while LIVE is 1, and the third byte of the frame buffer while CRC is off (R13, R15 to R18, R69, R94, R95). -/

namespace Sys2Proof.Machine

variable {s t u : State} {i : Instr}

/-! ### A read that is followed by more -/

/-- What a read that may be followed by `f` comes to: nothing when it never returned, its error when it
failed, else what `f` makes of the byte. -/
def thenOnOk {α : Type} (o : Option (State × Except ErrorKind Byte))
    (f : State → Byte → Option (State × Except ErrorKind α)) : Option (State × Except ErrorKind α) :=
  match o with
  | none => none
  | some (u, .error k) => some (u, .error k)
  | some (u, .ok b) => f u b

theorem State.updateRegister_eq (s : State) (reg : Nat) (mask value : Byte) :
    s.updateRegister reg mask value =
      thenOnOk (s.readRegister reg) fun u old => u.writeRegister reg (maskedUpdate old mask value) :=
  rfl

theorem State.handshake_cons (s : State) (a : Nat) (rest : List Nat) :
    s.handshake (a :: rest) = thenOnOk (s.readRegister a) fun u _ => u.handshake rest := rfl

/-! ### What exchanges leave alone -/

/-- From `s` to `t` nothing was done but exchanges and their bookkeeping: the configuration stays, and with
CRC off so does `FB[2]`. -/
def ExchangesOnly (s t : State) : Prop :=
  SameConfiguration s t ∧ (s.crcEn = false → t.fb.b2 = s.fb.b2)

theorem ExchangesOnly.configuration (h : ExchangesOnly s t) : SameConfiguration s t := h.1

theorem ExchangesOnly.thirdByte (h : ExchangesOnly s t) : s.crcEn = false → t.fb.b2 = s.fb.b2 := h.2

/-- A body that returns has made exchanges only, since `s`. -/
def ExchangesOnlyAfter {α : Type} (s : State) (o : Option (State × α)) : Prop :=
  ∀ p ∈ o, ExchangesOnly s p.1

theorem ExchangesOnly.refl (s : State) : ExchangesOnly s s :=
  ⟨⟨rfl, rfl, rfl, rfl, rfl, rfl, rfl, rfl, rfl⟩, fun _ => rfl⟩

theorem ExchangesOnly.trans (h : ExchangesOnly s t) (h' : ExchangesOnly t u) : ExchangesOnly s u := by
  obtain ⟨hconf, hbyte⟩ := h
  obtain ⟨hconf', hbyte'⟩ := h'
  refine ⟨by simp_all [SameConfiguration], fun hc => ?_⟩
  have hct : t.crcEn = false := hconf.2.2.1.trans hc
  exact (hbyte' hct).trans (hbyte hc)

/-- With CRC off an answer does not reach `FB[2]` (R13). -/
@[simp] theorem fbAfter_b2_off (fb : FrameBuffer) (a : Answer) : (fbAfter fb false a).b2 = fb.b2 := by
  cases a <;> rfl

/-- One request, loaded and exchanged. -/
theorem ExchangesOnly.exchanged (s : State) (src : FrameBuffer) (own : Bool) (d : Draw) :
    ExchangesOnly s ((s.load src).exchanged own d) :=
  ⟨(State.exchanged_same (s.load src) own d).1, fun hc => by simp [State.exchanged, hc]⟩

/-- `BUSY` and `PHASE` are bookkeeping, before and after. -/
theorem ExchangesOnly.ofBusyPhase {busy : Bool} {phase : Phase}
    (h : ExchangesOnly { s with busy := busy, phase := phase } t) : ExchangesOnly s t := h

/-! ### Bodies of operations -/

theorem exchangesOnlyAfter_some {α : Type} {r : α} (h : ExchangesOnly s t) :
    ExchangesOnlyAfter s (some (t, r)) := by
  rintro _ ⟨⟩
  exact h

theorem ExchangesOnlyAfter.thenOnOk {α : Type} {o : Option (State × Except ErrorKind Byte)}
    {f : State → Byte → Option (State × Except ErrorKind α)} (ho : ExchangesOnlyAfter s o)
    (hf : ∀ u b, ExchangesOnlyAfter u (f u b)) : ExchangesOnlyAfter s (thenOnOk o f) := by
  rcases o with _ | ⟨u, k | b⟩
  · exact fun _ hp => nomatch hp
  · exact exchangesOnlyAfter_some (ho _ rfl)
  · exact fun p hp => (ho _ rfl).trans (hf u b p hp)

theorem ExchangesOnlyAfter.map {α β : Type} {o : Option (State × α)} {f : State × α → State × β}
    (h : ExchangesOnlyAfter s o) (hf : ∀ p, (f p).1 = p.1) : ExchangesOnlyAfter s (o.map f) := by
  intro q hq
  obtain ⟨p, hp, rfl⟩ := Option.map_eq_some_iff.mp hq
  exact hf p ▸ h p hp

theorem State.sendWrite_exchangesOnly (s : State) (src : FrameBuffer) (own : Bool) :
    ExchangesOnlyAfter s (s.sendWrite src own) := by
  intro p hp
  rw [State.sendWrite_eq] at hp
  obtain ⟨d, -, rfl⟩ := Option.map_eq_some_iff.mp hp
  exact .exchanged s src own d

theorem State.sendRead_exchangesOnly (s : State) (src : FrameBuffer) (own : Bool) :
    ExchangesOnlyAfter s (s.sendRead src own) := by
  intro p hp
  rw [State.sendRead_eq] at hp
  obtain ⟨d, -, rfl⟩ := Option.map_eq_some_iff.mp hp
  exact ExchangesOnly.exchanged s src own d

theorem State.readRegister_exchangesOnly (s : State) (reg : Nat) :
    ExchangesOnlyAfter s (s.readRegister reg) := by
  cases hv : regValid s.cfg reg with
  | false => exact State.readRegister_invalid hv ▸ exchangesOnlyAfter_some (.refl s)
  | true => exact State.readRegister_valid hv ▸ s.sendRead_exchangesOnly _ _

theorem State.writeRegister_exchangesOnly (s : State) (reg : Nat) (data : Byte) :
    ExchangesOnlyAfter s (s.writeRegister reg data) := by
  cases hv : regValid s.cfg reg with
  | false => exact State.writeRegister_invalid hv ▸ exchangesOnlyAfter_some (.refl s)
  | true => exact State.writeRegister_valid hv ▸ s.sendWrite_exchangesOnly _ _

theorem State.updateRegister_exchangesOnly (s : State) (reg : Nat) (mask value : Byte) :
    ExchangesOnlyAfter s (s.updateRegister reg mask value) :=
  s.updateRegister_eq reg mask value ▸
    (s.readRegister_exchangesOnly reg).thenOnOk fun u _ => u.writeRegister_exchangesOnly reg _

theorem State.handshake_exchangesOnly (s : State) (regs : List Nat) :
    ExchangesOnlyAfter s (s.handshake regs) := by
  induction regs generalizing s with
  | nil => exact exchangesOnlyAfter_some (.refl s)
  | cons a rest ih =>
    exact s.handshake_cons a rest ▸ (s.readRegister_exchangesOnly a).thenOnOk fun u _ => ih u

theorem State.atOperand_exchangesOnly {α : Type} (s : State) (op : RegOperand)
    {body : Nat → Option (State × Except ErrorKind α)} (hbody : ∀ a, ExchangesOnlyAfter s (body a)) :
    ExchangesOnlyAfter s (s.atOperand op body) := by
  unfold State.atOperand
  split
  · exact exchangesOnlyAfter_some (.refl s)
  · exact hbody _

/-! ### Pure functions -/

/-- A pure function answers, or is refused, by its operands and the parameters alone (R44, R69). -/
theorem exec_pure (hp : isPure i = true) (s : State) :
    (∃ r, ∀ s' : State, s'.cfg = s.cfg → exec i s' = .next (s'.answerPure r)) ∨
    ∃ e, ∀ s' : State, s'.cfg = s.cfg → exec i s' = .refused e := by
  cases i with
  | rspR16 rx0 rdata =>
    exact .inl ⟨decodedResult (decResp s.cfg [rx0, rdata] false), fun s' hs => hs ▸ rfl⟩
  | rspR24 rx0 rdata rcrc =>
    exact .inl ⟨decodedResult (decResp s.cfg [rx0, rdata, rcrc] true), fun s' hs => hs ▸ rfl⟩
  | crcCompute b0 b1 dir =>
    exact .inl ⟨.ok (.byte (crc8 s.cfg b0 b1 dir)), fun s' hs => hs ▸ rfl⟩
  | crcVerify b0 b1 expected =>
    exact .inl ⟨.ok (.bool (Machine.crcVerify s.cfg b0 b1 expected)), fun s' hs => hs ▸ rfl⟩
  | encWrite chip reg data c =>
    by_cases hfit : (chipFits s.cfg chip && regFits s.cfg reg) = true
    · exact .inl ⟨.ok (.bytes (encWrite s.cfg chip reg data c)), fun s' hs => by
        rw [← hs] at hfit ⊢; exact if_pos hfit⟩
    · exact .inr ⟨_, fun s' hs => by rw [← hs] at hfit; exact if_neg hfit⟩
  | encRead chip reg c =>
    by_cases hfit : (chipFits s.cfg chip && regFits s.cfg reg) = true
    · exact .inl ⟨.ok (.bytes (encRead s.cfg chip reg c)), fun s' hs => by
        rw [← hs] at hfit ⊢; exact if_pos hfit⟩
    · exact .inr ⟨_, fun s' hs => by rw [← hs] at hfit; exact if_neg hfit⟩
  | decResp f c =>
    exact .inl ⟨decodedResult (decResp s.cfg f c), fun s' hs => hs ▸ rfl⟩
  | _ => exact absurd hp Bool.false_ne_true

theorem exec_pure_next (hp : isPure i = true) (hn : exec i s = .next t) : ∃ r, t = s.answerPure r := by
  rcases exec_pure hp s with ⟨r, h⟩ | ⟨e, h⟩ <;> rw [h s rfl] at hn <;> cases hn
  exact ⟨r, rfl⟩

/-! ### How an instruction ends -/

/-- How INIT can end: rejected at once, or after its handshake with or without success (R94, R26). -/
def InitEnds (s : State) (chip : Nat) (crcEn : Bool) (t : State) : Prop :=
  (∃ k, t = s.raise k) ∨
  (s.live = false ∧ ∃ u, ExchangesOnly (s.create chip crcEn) u ∧
    (t = u.returnOk .unit ∨ ∃ k, t = u.dissolve.raise k))

/-- How a register operation or a request frame can end: exchanges, and the return to the caller (R107). -/
def AccessEnds (s t : State) : Prop := ∃ u r, ExchangesOnly s u ∧ t = u.complete r

/-- How TEARDOWN can end (R95). -/
def TeardownEnds (s t : State) : Prop :=
  s.live = true ∧ ∃ fb r, t = State.complete { s.dissolve with fb := fb } r

/-- How an instruction that goes on from `s` can end. -/
def Ends (s : State) (i : Instr) (t : State) : Prop :=
  (isPure i = true ∧ ∃ r, t = s.answerPure r) ∨
  (needsInstance i = true ∧ AccessEnds s t) ∨
  (∃ chip crcEn, i = .init chip crcEn ∧ InitEnds s chip crcEn t) ∨
  (i = .teardown ∧ TeardownEnds s t)

variable {body : State → Option (State × Except ErrorKind Value)}

theorem accessEnds_onInstance (hbody : ∀ u : State, ExchangesOnlyAfter u (body u))
    (hn : s.onInstance body = .next t) : AccessEnds s t := by
  obtain ⟨-, u, r, hb, rfl⟩ := State.onInstance_next hn
  exact ⟨u, r, (hbody _ _ hb).ofBusyPhase, rfl⟩

theorem accessEnds_onFrame {mode : Bool} {chip reg : Nat}
    (hbody : ∀ u : State, ExchangesOnlyAfter u (body u))
    (hn : s.onFrame mode chip reg body = .next t) : AccessEnds s t := by
  obtain ⟨-, -, -, -, -, u, r, hb, rfl⟩ := State.onFrame_next hn
  refine ⟨u, r, ExchangesOnly.ofBusyPhase (busy := true) (phase := .check) ?_, rfl⟩
  split at hb
  · exact hbody _ _ hb
  · exact exchangesOnlyAfter_some (.refl _) _ hb

theorem accessEnds_onWriteFrame {mode : Bool} {chip reg : Nat} {data crc : Byte}
    (hn : s.onWriteFrame mode chip reg data crc = .next t) : AccessEnds s t :=
  accessEnds_onFrame (fun u => (u.sendWrite_exchangesOnly _ _).map fun _ => rfl) hn

theorem accessEnds_onReadFrame {mode : Bool} {chip reg : Nat} {crc : Byte}
    (hn : s.onReadFrame mode chip reg crc = .next t) : AccessEnds s t :=
  accessEnds_onFrame (fun u => (u.sendRead_exchangesOnly _ _).map fun _ => rfl) hn

theorem execInit_ends {chip : Nat} {crcEn : Bool} (hn : execInit chip crcEn s = .next t) :
    InitEnds s chip crcEn t := by
  unfold execInit at hn
  split_ifs at hn with hlive hbusy hchip hregs
  · cases hn
    exact .inl ⟨_, rfl⟩
  · cases hn
    exact .inl ⟨_, rfl⟩
  · have hshaken := (s.create chip crcEn).handshake_exchangesOnly s.cfg.faultRegs
    cases hr : (s.create chip crcEn).handshake s.cfg.faultRegs with
    | none => simp [hr, finishInit] at hn
    | some p =>
      obtain ⟨u, r⟩ := p
      refine .inr ⟨Bool.eq_false_of_not_eq_true hlive, u, hshaken _ hr, ?_⟩
      rw [hr] at hn
      cases r with
      | ok _ =>
        cases hn
        exact .inl rfl
      | error k =>
        cases hn
        exact .inr ⟨k, rfl⟩

theorem execTeardown_ends (hn : execTeardown s = .next t) : TeardownEnds s t := by
  obtain ⟨⟨hlive, -⟩, u, r, hb, rfl⟩ := State.onInstance_next hn
  cases hb
  exact ⟨hlive, _, _, rfl⟩

/-- A register operation or a request frame that goes on. -/
theorem exec_access_ends (hi : needsInstance i = true) (ht : i ≠ .teardown)
    (hn : exec i s = .next t) : AccessEnds s t := by
  cases i with
  | regwrF16 chip reg data => exact accessEnds_onWriteFrame hn
  | regrdF16 chip reg => exact accessEnds_onReadFrame hn
  | regwrF24 chip reg data crc => exact accessEnds_onWriteFrame hn
  | regrdF24 chip reg crc => exact accessEnds_onReadFrame hn
  | regRead op =>
    exact accessEnds_onInstance
      (fun u => (u.atOperand_exchangesOnly op u.readRegister_exchangesOnly).map fun _ => rfl) hn
  | regWrite op data =>
    exact accessEnds_onInstance
      (fun u => (u.atOperand_exchangesOnly op fun a => u.writeRegister_exchangesOnly a data).map
        fun _ => rfl) hn
  | regUpdate op mask value =>
    exact accessEnds_onInstance
      (fun u => (u.atOperand_exchangesOnly op fun a => u.updateRegister_exchangesOnly a mask value).map
        fun _ => rfl) hn
  | dbgRead addr =>
    exact accessEnds_onInstance (fun u => (u.readRegister_exchangesOnly addr).map fun _ => rfl) hn
  | dbgWrite addr val =>
    exact accessEnds_onInstance (fun u => (u.writeRegister_exchangesOnly addr val).map fun _ => rfl) hn
  | teardown => exact absurd rfl ht
  | _ => exact absurd hi Bool.false_ne_true

/-- INIT is the one instruction that is neither pure nor needs LIVE = 1 (R18, R44). -/
theorem eq_init_of_notPure (hp : isPure i = false) (hi : needsInstance i = false) :
    ∃ chip crcEn, i = .init chip crcEn := by
  cases i with
  | init chip crcEn => exact ⟨chip, crcEn, rfl⟩
  | _ => simp [isPure, needsInstance] at hp hi

/-- Every instruction that goes on ends in one of these ways. -/
theorem exec_ends (hn : exec i s = .next t) : Ends s i t := by
  cases hp : isPure i with
  | true => exact .inl ⟨hp, exec_pure_next hp hn⟩
  | false =>
    cases hi : needsInstance i with
    | true =>
      by_cases ht : i = .teardown
      · subst ht
        exact .inr (.inr (.inr ⟨rfl, execTeardown_ends hn⟩))
      · exact .inr (.inl ⟨hi, exec_access_ends hi ht hn⟩)
    | false =>
      obtain ⟨chip, crcEn, rfl⟩ := eq_init_of_notPure hp hi
      exact .inr (.inr (.inl ⟨chip, crcEn, rfl, execInit_ends hn⟩))

/-! ### Configuration -/

/-- What INIT leaves alone before its handshake. -/
theorem State.create_same (s : State) (chip : Nat) (crcEn : Bool) :
    (s.create chip crcEn).cfg = s.cfg ∧ (s.create chip crcEn).chCount = s.chCount ∧
      (s.create chip crcEn).commands = s.commands ∧ (s.create chip crcEn).fb = s.fb := by
  unfold State.create State.afterInitMode
  split <;> exact ⟨rfl, rfl, rfl, rfl⟩

/-- Nor does the handshake write the parameters, `CH_COUNT` and the commands, and with the mode off
`FB[2]` stays (R94). -/
theorem ExchangesOnly.ofCreate {chip : Nat} {crcEn : Bool} (h : ExchangesOnly (s.create chip crcEn) u) :
    u.cfg = s.cfg ∧ u.chCount = s.chCount ∧ u.commands = s.commands ∧
      (s.initMode crcEn = false → u.fb.b2 = s.fb.b2) := by
  obtain ⟨hcfg, hch, hcmd, hfb⟩ := s.create_same chip crcEn
  obtain ⟨hcfg', -, -, hch', -, hcmd', -⟩ := h.configuration
  exact ⟨hcfg'.trans hcfg, hch'.trans hch, hcmd'.trans hcmd,
    fun hoff => (h.thirdByte hoff).trans (congrArg FrameBuffer.b2 hfb)⟩

/-- An instruction leaves the configuration alone, or it is INIT, from `LIVE` = 0, or TEARDOWN, into it;
and these two leave the parameters, `CH_COUNT` and the waiting commands (R15 to R18). -/
theorem Ends.sameConfiguration_or (h : Ends s i t) :
    SameConfiguration s t ∨
    (t.cfg = s.cfg ∧ t.chCount = s.chCount ∧ t.commands = s.commands ∧
      ((s.live = false ∧ ∃ chip crcEn, i = .init chip crcEn) ∨ (t.live = false ∧ i = .teardown))) := by
  rcases h with ⟨-, r, rfl⟩ | ⟨-, u, r, h, rfl⟩ | ⟨chip, crcEn, rfl, hinit⟩ | ⟨rfl, -, fb, r, rfl⟩
  · exact .inl (by simp [SameConfiguration])
  · exact .inl h.configuration
  · rcases hinit with ⟨k, rfl⟩ | ⟨hlive, u, h, rfl | ⟨k, rfl⟩⟩
    · exact .inl (by simp [SameConfiguration])
    · obtain ⟨hcfg, hch, hcmd, -⟩ := h.ofCreate
      exact .inr ⟨hcfg, hch, hcmd, .inl ⟨hlive, chip, crcEn, rfl⟩⟩
    · obtain ⟨hcfg, hch, hcmd, -⟩ := h.ofCreate
      exact .inr ⟨hcfg, hch, hcmd, .inl ⟨hlive, chip, crcEn, rfl⟩⟩
  · exact .inr ⟨rfl, rfl, rfl, .inr ⟨rfl, rfl⟩⟩

/-- Settles O41: only INIT, from `LIVE` = 0, and TEARDOWN, into it, write the configuration. -/
theorem configurationFixedWhileLive : Obligations.ConfigurationFixedWhileLive := by
  intro i s t hn
  rcases (exec_ends hn).sameConfiguration_or with
    ⟨hcfg, hchip, hcrc, hch, hlive, hcmd, -⟩ | ⟨hcfg, hch, hcmd, ⟨hdead, hi⟩ | ⟨hdead, hi⟩⟩
  · exact ⟨hcfg, hch, hcmd, fun _ _ => ⟨hchip, hcrc⟩,
      fun h h' => absurd (h.symm.trans (hlive.symm.trans h')) Bool.false_ne_true,
      fun h h' => absurd (h'.symm.trans (hlive.trans h)) Bool.false_ne_true⟩
  · have hnot (h : s.live = true) : False := Bool.false_ne_true (hdead.symm.trans h)
    exact ⟨hcfg, hch, hcmd, fun h => (hnot h).elim, fun _ _ => hi, fun h => (hnot h).elim⟩
  · have hnot (h : t.live = true) : False := Bool.false_ne_true (hdead.symm.trans h)
    exact ⟨hcfg, hch, hcmd, fun _ h => (hnot h).elim, fun _ h => (hnot h).elim, fun _ _ => hi⟩

/-! ### The third byte -/

/-- Settles O46: exchanges in a mode with CRC off do not reach `FB[2]`, INIT's own mode included, and
nothing but an exchange or TEARDOWN writes `FB`. -/
theorem thirdBufferByteUntouchedWithCrcOff : Obligations.ThirdBufferByteUntouchedWithCrcOff := by
  intro i s t hteardown hcrc hmode hn
  rcases exec_ends hn with
    ⟨-, r, rfl⟩ | ⟨hi, u, r, h, rfl⟩ | ⟨chip, crcEn, rfl, hinit⟩ | ⟨rfl, -⟩
  · rfl
  · exact h.thirdByte (hcrc hi)
  · rcases hinit with ⟨k, rfl⟩ | ⟨-, u, h, hend⟩
    · rfl
    · obtain ⟨-, -, -, hbyte⟩ := h.ofCreate
      rcases hend with rfl | ⟨k, rfl⟩ <;> exact hbyte (hmode chip crcEn rfl)
  · exact absurd rfl hteardown

end Sys2Proof.Machine
end

section
/-! PROOFS. The frame buffer is written before it is read (R13): two runs that start with different buffers
and are alike otherwise stay alike. -/

namespace Sys2Proof.Machine

variable {s s' : State}

/-! ### Two runs that differ in the buffer only -/

/-- The bodies of two runs came to the same: neither returned, or both did, with one result. -/
abbrev BodiesAgree {α : Type} (o o' : Option (State × α)) : Prop :=
  Option.Rel (fun p p' => SameButFrameBuffer p.1 p'.1 ∧ p.2 = p'.2) o o'

/-- What one run ends in the other does: in a state that differs at most in the buffer, or stopped for
the same reason. -/
def OutcomesAgree (o o' : StepOutcome) : Prop :=
  (∀ t, o = .next t → ∃ t', o' = .next t' ∧ SameButFrameBuffer t t') ∧
  (∀ r, o = .fault r → o' = .fault r) ∧ (∀ r, o = .refused r → o' = .refused r)

theorem OutcomesAgree.next (h : SameButFrameBuffer s s') : OutcomesAgree (.next s) (.next s') := by
  refine ⟨fun t ht => ?_, fun r hr => ?_, fun r hr => ?_⟩
  · cases ht
    exact ⟨s', rfl, h⟩
  · cases hr
  · cases hr

theorem OutcomesAgree.fault (r : Fault) : OutcomesAgree (.fault r) (.fault r) := by
  refine ⟨fun t ht => ?_, fun _ hr => hr, fun r' hr => ?_⟩
  · cases ht
  · cases hr

theorem OutcomesAgree.refused (r : Refusal) : OutcomesAgree (.refused r) (.refused r) := by
  refine ⟨fun t ht => ?_, fun r' hr => ?_, fun _ hr => hr⟩
  · cases ht
  · cases hr

theorem SameButFrameBuffer.cfg_eq (h : SameButFrameBuffer s s') : s'.cfg = s.cfg := by rw [h]

theorem SameButFrameBuffer.chCount_eq (h : SameButFrameBuffer s s') : s'.chCount = s.chCount := by rw [h]

theorem exists_withFb (h : SameButFrameBuffer s s') : ∃ fb, s' = { s with fb := fb } := ⟨_, h⟩

theorem bodiesAgree_some {α : Type} (r : α) (h : SameButFrameBuffer s s') :
    BodiesAgree (some (s, r)) (some (s', r)) := .some ⟨h, rfl⟩

theorem BodiesAgree.map {α β : Type} {o o' : Option (State × α)} {f : State × α → State × β} {g : α → β}
    (h : BodiesAgree o o') (hf : ∀ p, f p = (p.1, g p.2)) : BodiesAgree (o.map f) (o'.map f) := by
  cases h with
  | none => exact .none
  | some hp =>
    simp only [Option.map_some, hf]
    exact .some ⟨hp.1, congrArg g hp.2⟩

theorem bodiesAgree_cases {α : Type} {o o' : Option (State × α)} (h : BodiesAgree o o') :
    (o = none ∧ o' = none) ∨
    ∃ u u' r, o = some (u, r) ∧ o' = some (u', r) ∧ SameButFrameBuffer u u' := by
  cases h with
  | none => exact .inl ⟨rfl, rfl⟩
  | @some p p' hp =>
    obtain ⟨hu, hr⟩ := hp
    exact .inr ⟨p.1, p'.1, p.2, rfl, hr ▸ rfl, hu⟩

theorem BodiesAgree.thenOnOk {α : Type} {o o' : Option (State × Except ErrorKind Byte)}
    {f : State → Byte → Option (State × Except ErrorKind α)} (h : BodiesAgree o o')
    (hf : ∀ u u' b, SameButFrameBuffer u u' → BodiesAgree (f u b) (f u' b)) :
    BodiesAgree (thenOnOk o f) (thenOnOk o' f) := by
  rcases bodiesAgree_cases h with ⟨rfl, rfl⟩ | ⟨u, u', k | b, rfl, rfl, hu⟩
  · exact .none
  · exact bodiesAgree_some _ hu
  · exact hf u u' b hu

/-! ### One frame -/

/-- The exchange of a loaded request sees the request, whatever the buffer held before (R13). -/
theorem exchanged_agrees (h : SameButFrameBuffer s s') (src : FrameBuffer) (own : Bool) (d : Draw) :
    SameButFrameBuffer ((s.load src).exchanged own d) ((s'.load src).exchanged own d) := by
  obtain ⟨fb, rfl⟩ := exists_withFb h
  simp [State.exchanged, State.load, fbFrame_fbStore]

/-- With CRC off `FB[2]` is not looked at, and the rest of the buffer is the response (R71). -/
theorem readOutcome_agrees (cfg : Config) (fb fb' src : FrameBuffer) (c : Bool) (a : Answer) :
    readOutcome cfg (fbAfter (fbStore fb src c) c a) c a =
      readOutcome cfg (fbAfter (fbStore fb' src c) c a) c a := by
  cases a with
  | ok rx => simp only [fbAfter, readOutcome_ok]
  | fail e => rfl

theorem sendWrite_agrees (h : SameButFrameBuffer s s') (src : FrameBuffer) (own : Bool) :
    BodiesAgree (s.sendWrite src own) (s'.sendWrite src own) := by
  obtain ⟨fb, rfl⟩ := exists_withFb h
  have hdraw : State.nextDraw { s with fb := fb } = s.nextDraw := State.nextDraw_congr rfl rfl
  rw [State.sendWrite_eq, State.sendWrite_eq, hdraw]
  cases s.nextDraw with
  | none => exact .none
  | some d => exact bodiesAgree_some _ (exchanged_agrees h src own d)

theorem sendRead_agrees (h : SameButFrameBuffer s s') (src : FrameBuffer) (own : Bool) :
    BodiesAgree (s.sendRead src own) (s'.sendRead src own) := by
  obtain ⟨fb, rfl⟩ := exists_withFb h
  have hdraw : State.nextDraw { s with fb := fb } = s.nextDraw := State.nextDraw_congr rfl rfl
  rw [State.sendRead_eq, State.sendRead_eq, hdraw]
  cases s.nextDraw with
  | none => exact .none
  | some d =>
    exact .some ⟨congrArg (fun u : State => { u with phase := .decode }) (exchanged_agrees h src own d),
      readOutcome_agrees s.cfg s.fb fb src s.crcEn d.answer⟩

/-! ### Bodies of operations -/

theorem readRegister_agrees (h : SameButFrameBuffer s s') (reg : Nat) :
    BodiesAgree (s.readRegister reg) (s'.readRegister reg) := by
  obtain ⟨fb, rfl⟩ := exists_withFb h
  cases hv : regValid s.cfg reg with
  | false =>
    rw [State.readRegister_invalid hv, State.readRegister_invalid (s := { s with fb := fb }) hv]
    exact bodiesAgree_some _ h
  | true =>
    rw [State.readRegister_valid hv, State.readRegister_valid (s := { s with fb := fb }) hv]
    exact sendRead_agrees h _ _

theorem writeRegister_agrees (h : SameButFrameBuffer s s') (reg : Nat) (data : Byte) :
    BodiesAgree (s.writeRegister reg data) (s'.writeRegister reg data) := by
  obtain ⟨fb, rfl⟩ := exists_withFb h
  cases hv : regValid s.cfg reg with
  | false =>
    rw [State.writeRegister_invalid hv, State.writeRegister_invalid (s := { s with fb := fb }) hv]
    exact bodiesAgree_some _ h
  | true =>
    rw [State.writeRegister_valid hv, State.writeRegister_valid (s := { s with fb := fb }) hv]
    exact sendWrite_agrees h _ _

theorem updateRegister_agrees (h : SameButFrameBuffer s s') (reg : Nat) (mask value : Byte) :
    BodiesAgree (s.updateRegister reg mask value) (s'.updateRegister reg mask value) := by
  rw [State.updateRegister_eq, State.updateRegister_eq]
  exact (readRegister_agrees h reg).thenOnOk fun _ _ _ hu => writeRegister_agrees hu reg _

theorem handshake_agrees (h : SameButFrameBuffer s s') (regs : List Nat) :
    BodiesAgree (s.handshake regs) (s'.handshake regs) := by
  induction regs generalizing s s' with
  | nil => exact bodiesAgree_some _ h
  | cons a rest ih =>
    rw [State.handshake_cons, State.handshake_cons]
    exact (readRegister_agrees h a).thenOnOk fun _ _ _ hu => ih hu

theorem atOperand_agrees {α : Type} (h : SameButFrameBuffer s s') (op : RegOperand)
    {body body' : Nat → Option (State × Except ErrorKind α)} (hbody : ∀ a, BodiesAgree (body a) (body' a)) :
    BodiesAgree (s.atOperand op body) (s'.atOperand op body') := by
  have hch : s'.chCount = s.chCount := SameButFrameBuffer.chCount_eq h
  rw [State.atOperand, State.atOperand, hch]
  cases operandAddress s.chCount op with
  | error k => exact bodiesAgree_some _ h
  | ok reg => exact hbody reg

/-! ### Instructions -/

theorem complete_agrees (h : SameButFrameBuffer s s') (r : Except ErrorKind Value) :
    SameButFrameBuffer (s.complete r) (s'.complete r) :=
  congrArg (fun u : State => u.complete r) h

theorem finish_agrees {o o' : Option (State × Except ErrorKind Value)} (h : BodiesAgree o o') :
    OutcomesAgree (finish o) (finish o') := by
  rcases bodiesAgree_cases h with ⟨rfl, rfl⟩ | ⟨u, u', r, rfl, rfl, hu⟩
  · exact .fault _
  · exact .next (complete_agrees hu r)

theorem finishInit_agrees {o o' : Option (State × Except ErrorKind Unit)} (h : BodiesAgree o o') :
    OutcomesAgree (finishInit o) (finishInit o') := by
  rcases bodiesAgree_cases h with ⟨rfl, rfl⟩ | ⟨u, u', r, rfl, rfl, hu⟩
  · exact .fault _
  cases r with
  | ok _ => exact .next (congrArg (fun v : State => v.returnOk .unit) hu)
  | error k => exact .next (congrArg (fun v : State => v.dissolve.raise k) hu)

variable {body : State → Option (State × Except ErrorKind Value)}

theorem onInstance_agrees (h : SameButFrameBuffer s s')
    (hbody : ∀ u u', SameButFrameBuffer u u' → BodiesAgree (body u) (body u')) :
    OutcomesAgree (s.onInstance body) (s'.onInstance body) := by
  obtain ⟨fb, rfl⟩ := exists_withFb h
  simp only [State.onInstance]
  split
  · exact .refused _
  split
  · exact .refused _
  · exact finish_agrees (hbody _ _ rfl)

theorem onFrame_agrees {mode : Bool} {chip reg : Nat} (h : SameButFrameBuffer s s')
    (hbody : ∀ u u', SameButFrameBuffer u u' → BodiesAgree (body u) (body u')) :
    OutcomesAgree (s.onFrame mode chip reg body) (s'.onFrame mode chip reg body) := by
  obtain ⟨fb, rfl⟩ := exists_withFb h
  simp only [State.onFrame]
  split
  · exact .refused _
  split
  · exact .refused _
  split
  · exact .refused _
  refine onInstance_agrees h fun u u' hu => ?_
  obtain ⟨fb, rfl⟩ := exists_withFb hu
  dsimp only
  split
  · exact hbody _ _ hu
  · exact bodiesAgree_some _ hu

theorem onWriteFrame_agrees {mode : Bool} {chip reg : Nat} {data crc : Byte}
    (h : SameButFrameBuffer s s') :
    OutcomesAgree (s.onWriteFrame mode chip reg data crc) (s'.onWriteFrame mode chip reg data crc) := by
  refine onFrame_agrees h fun u u' hu => ?_
  obtain ⟨fb, rfl⟩ := exists_withFb hu
  exact (sendWrite_agrees hu _ _).map (g := Except.map fun _ => .unit) fun _ => rfl

theorem onReadFrame_agrees {mode : Bool} {chip reg : Nat} {crc : Byte} (h : SameButFrameBuffer s s') :
    OutcomesAgree (s.onReadFrame mode chip reg crc) (s'.onReadFrame mode chip reg crc) := by
  refine onFrame_agrees h fun u u' hu => ?_
  obtain ⟨fb, rfl⟩ := exists_withFb hu
  exact (sendRead_agrees hu _ _).map (g := Except.map .byte) fun _ => rfl

/-- INIT sets up the same registers over either buffer (R94). -/
theorem create_agrees (h : SameButFrameBuffer s s') (chip : Nat) (crcEn : Bool) :
    SameButFrameBuffer (s.create chip crcEn) (s'.create chip crcEn) := by
  obtain ⟨fb, rfl⟩ := exists_withFb h
  unfold State.create State.afterInitMode
  dsimp only
  split <;> rfl

theorem init_agrees (h : SameButFrameBuffer s s') (chip : Nat) (crcEn : Bool) :
    OutcomesAgree (execInit chip crcEn s) (execInit chip crcEn s') := by
  have hraise : OutcomesAgree (.next (s.raise .invalidArgument)) (.next (s'.raise .invalidArgument)) :=
    .next (complete_agrees h (.error .invalidArgument))
  have hcreate := create_agrees h chip crcEn
  obtain ⟨fb, rfl⟩ := exists_withFb h
  simp only [execInit]
  split
  · exact .refused _
  split
  · exact .refused _
  split
  · exact hraise
  split
  · exact hraise
  · exact finishInit_agrees (handshake_agrees hcreate _)

theorem teardown_agrees (h : SameButFrameBuffer s s') :
    OutcomesAgree (execTeardown s) (execTeardown s') := by
  refine onInstance_agrees h fun u u' hu => ?_
  obtain ⟨fb, rfl⟩ := exists_withFb hu
  exact bodiesAgree_some _ rfl

theorem pure_agrees {i : Instr} (h : SameButFrameBuffer s s') (hp : isPure i = true) :
    OutcomesAgree (exec i s) (exec i s') := by
  have hcfg : s'.cfg = s.cfg := SameButFrameBuffer.cfg_eq h
  rcases exec_pure hp s with ⟨r, hr⟩ | ⟨e, he⟩
  · rw [hr s rfl, hr s' hcfg]
    exact .next (congrArg (fun u : State => u.answerPure r) h)
  · rw [he s rfl, he s' hcfg]
    exact .refused e

/-- Under every instruction the two runs stay alike. -/
theorem exec_agrees (h : SameButFrameBuffer s s') (i : Instr) : OutcomesAgree (exec i s) (exec i s') := by
  by_cases hp : isPure i = true
  · exact pure_agrees h hp
  cases i with
  | regwrF16 chip reg data => exact onWriteFrame_agrees h
  | regrdF16 chip reg => exact onReadFrame_agrees h
  | regwrF24 chip reg data crc => exact onWriteFrame_agrees h
  | regrdF24 chip reg crc => exact onReadFrame_agrees h
  | regRead op =>
    exact onInstance_agrees h fun u u' hu =>
      (atOperand_agrees hu op (readRegister_agrees hu)).map (g := Except.map .byte) fun _ => rfl
  | regWrite op data =>
    exact onInstance_agrees h fun u u' hu =>
      (atOperand_agrees hu op fun a => writeRegister_agrees hu a data).map
        (g := Except.map fun _ => .unit) fun _ => rfl
  | regUpdate op mask value =>
    exact onInstance_agrees h fun u u' hu =>
      (atOperand_agrees hu op fun a => updateRegister_agrees hu a mask value).map
        (g := Except.map fun _ => .unit) fun _ => rfl
  | dbgRead addr =>
    exact onInstance_agrees h fun u u' hu =>
      (readRegister_agrees hu addr).map (g := Except.map .byte) fun _ => rfl
  | dbgWrite addr val =>
    exact onInstance_agrees h fun u u' hu =>
      (writeRegister_agrees hu addr val).map (g := Except.map fun _ => .unit) fun _ => rfl
  | init chip crcEn => exact init_agrees h chip crcEn
  | teardown => exact teardown_agrees h
  | _ => exact absurd rfl hp

/-- Settles O45: ENCODE fills the buffer before anything looks at it, so the two runs agree. -/
theorem frameBufferCarriesNothing : Obligations.FrameBufferCarriesNothing := by
  intro i s s' h
  exact exec_agrees h i

end Sys2Proof.Machine
end

section
/-! PROOFS. The entry of every operation, the choice of a step, and the state after reset (R18, R19, R20,
R26, R40, R94, R96, R114). -/

namespace Sys2Proof.Machine

variable {s : State} {i : Instr}

/-! ### Entry -/

/-- A request frame makes its own checks only where LIVE and BUSY let an operation in (log 13). -/
theorem State.onFrame_notReady {body : State → Option (State × Except ErrorKind Value)} {mode : Bool}
    {chip reg : Nat} (h : ¬s.Ready) :
    s.onFrame mode chip reg body =
      s.onInstance fun u =>
        if regValid u.cfg reg then body u else some (u, .error .invalidArgument) := by
  have hfree : (s.live && !s.busy) = false := by simpa [State.Ready] using h
  simp [State.onFrame, hfree]

/-- Every operation that needs LIVE = 1, where it is not let in, answers as the shared entry check. -/
theorem exec_notReady (hi : needsInstance i = true) (h : ¬s.Ready) :
    ∃ body, exec i s = s.onInstance body := by
  cases i with
  | regwrF16 chip reg data => exact ⟨_, State.onFrame_notReady h⟩
  | regrdF16 chip reg => exact ⟨_, State.onFrame_notReady h⟩
  | regwrF24 chip reg data crc => exact ⟨_, State.onFrame_notReady h⟩
  | regrdF24 chip reg crc => exact ⟨_, State.onFrame_notReady h⟩
  | regRead op => exact ⟨_, Eq.refl (execRegRead op s)⟩
  | regWrite op data => exact ⟨_, Eq.refl (execRegWrite op data s)⟩
  | regUpdate op mask value => exact ⟨_, Eq.refl (execRegUpdate op mask value s)⟩
  | dbgRead addr => exact ⟨_, Eq.refl (execDbgRead addr s)⟩
  | dbgWrite addr val => exact ⟨_, Eq.refl (execDbgWrite addr val s)⟩
  | teardown => exact ⟨_, Eq.refl (execTeardown s)⟩
  | _ => exact absurd hi Bool.false_ne_true

theorem exec_notLive (hi : needsInstance i = true) (h : s.live = false) :
    exec i s = .refused .notLive := by
  obtain ⟨body, hbody⟩ := exec_notReady hi (s := s) fun hr => Bool.false_ne_true (h.symm.trans hr.1)
  rw [hbody, State.onInstance_notLive h]

theorem exec_busy (hi : needsInstance i = true) (h : s.live = true) (hb : s.busy = true) :
    exec i s = .refused .instanceBusy := by
  obtain ⟨body, hbody⟩ := exec_notReady hi (s := s) fun hr => Bool.false_ne_true (hr.2.symm.trans hb)
  rw [hbody, State.onInstance_busy h hb]

/-- Settles O37: all operations but INIT pass the shared entry check first, and INIT has its own. -/
theorem instanceOperationsNeedAFreeInstance : Obligations.InstanceOperationsNeedAFreeInstance := by
  intro s i chip crcEn
  refine ⟨exec_notLive, exec_busy, fun hlive => ?_, fun hlive hbusy => ?_⟩
  · simp [exec, execInit, hlive]
  · simp [exec, execInit, hlive, hbusy]

/-! ### The choice of a step -/

/-- A step with the command `c` in front runs the instruction `c` stands for, or refuses its bytes. -/
theorem step_cons {c : Command} {rest : List Command} (h : s.commands = c :: rest) :
    (∀ i, c.instr s.cfg = .ok i → step s = exec i { s with commands := rest }) ∧
      ∀ e, c.instr s.cfg = .error e → step s = .refused (.undecodable e) := by
  have hfetch : s.fetch = some (c, { s with commands := rest }) := by rw [State.fetch, h]
  constructor <;>
    · intro x hx
      rw [step, hfetch]
      dsimp only
      rw [hx]

/-- Settles O38: each kind of command has its reading as an instruction, and the step runs that. -/
theorem stepRunsTheNextCommand : Obligations.StepRunsTheNextCommand := by
  intro s c rest h
  obtain ⟨hok, herror⟩ := step_cons h
  refine ⟨?_, ?_, ?_, ?_, rfl⟩
  · rintro i rfl
    exact hok i rfl
  · rintro dir bytes i rfl hi
    exact hok i hi
  · rintro dir bytes e rfl he
    exact herror e he
  · rintro a rfl
    exact hok _ rfl

/-! ### Reset -/

/-- The invariant holds after reset: nothing is known, latched or sent, and there is no chip address to
fit (R26, R114; log 6, 12). -/
theorem State.resetWith_inv {cfg : Config} (h : cfg.Valid) : (State.resetWith cfg).Inv := by
  refine ⟨h, ?_, ?_, rfl, rfl, fun hlive => absurd hlive Bool.false_ne_true, rfl, ?_⟩ <;>
    simp [memoryWf, latchesWf, State.resetWith]

/-- Settles O39. -/
theorem resetHasNoInstanceAndMeetsTheInvariant :
    Obligations.ResetHasNoInstanceAndMeetsTheInvariant :=
  fun _ h => ⟨rfl, rfl, rfl, rfl, rfl, rfl, State.resetWith_inv h⟩

end Sys2Proof.Machine
end

section
/-! PROOFS. Frames and their encoding (R45 to R53, R59): a control byte and its three fields are two forms
of one thing, so the decoder and the encoder are inverse to each other; a request frame of the block's
own is the register operation that builds it; the codec's read encoder and the response rows. -/

namespace Sys2Proof.Machine

variable {cfg : Config} {s : State} {src : FrameBuffer} {chip reg : Nat} {mode : Bool}

/-! ### Fields that fit, and frames that are the block's own -/

theorem chipFits_iff : chipFits cfg chip = true ↔ chip < 2 ^ cfg.chipAddrW :=
  decide_eq_true_iff

theorem regFits_iff : regFits cfg reg = true ↔ reg < 2 ^ cfg.regAddrW :=
  decide_eq_true_iff

/-- The check of the encoders' operands and of a frame's fields (R47, R65). -/
theorem fieldsFit_iff :
    (chipFits cfg chip && regFits cfg reg) = true ↔
      chip < 2 ^ cfg.chipAddrW ∧ reg < 2 ^ cfg.regAddrW := by
  rw [Bool.and_eq_true, chipFits_iff, regFits_iff]

/-- A register address the block puts on the link fits its field (R8, R54). -/
theorem regFits_of_le_max (h : cfg.Valid) (hreg : reg ≤ cfg.regAddrMax) :
    regFits cfg reg = true := by
  obtain ⟨-, -, hmax, -⟩ := h
  exact regFits_iff.mpr (Nat.lt_of_le_of_lt hreg hmax)

theorem State.ownFrame_iff :
    s.ownFrame src = true ↔ (s.crcEn = true → src.b2 = crc8 s.cfg src.b0 src.b1 .outbound) := by
  cases hc : s.crcEn <;> simp [State.ownFrame, hc]

/-- With LIVE = 1 and BUSY = 0, a request frame with `CHIP_ADDR`, in the mode of `CRC_EN`, to a valid
register passes every entry check (R29, R45, R54). -/
theorem State.onFrame_own {body : State → Option (State × Except ErrorKind Value)} (hv : s.cfg.Valid)
    (h : s.Ready) (hchip : chipFits s.cfg s.chipAddr = true) (hreg : reg ≤ s.cfg.regAddrMax)
    (hmode : s.crcEn = mode) :
    s.onFrame mode s.chipAddr reg body = finish (body { s with busy := true, phase := .check }) := by
  have hfits := regFits_of_le_max hv hreg
  have hvalid : regValid s.cfg reg = true := decide_eq_true hreg
  simp [State.onFrame, hchip, hfits, hmode, State.onInstance_ready h, hvalid]

/-! ### The control byte and its fields -/

/-- The two address fields and R/W tile the byte (R8, D4). -/
theorem regAddrW_add_chipAddrW (h : cfg.Valid) : cfg.regAddrW + cfg.chipAddrW = 7 := by
  obtain ⟨-, hmax, -⟩ := h
  exact Nat.sub_add_cancel (Nat.le_succ_of_le hmax)

theorem chipShift_eq (h : cfg.Valid) : 8 - cfg.chipAddrW = cfg.regAddrW + 1 := by
  have hwidths := regAddrW_add_chipAddrW h
  omega

/-- Above the R/W bit stands the register address, above that the chip address (R47). -/
theorem ctrl_testBit_succ (h : cfg.Valid) (chip reg : Nat) (rw : Bool) (i : Nat) :
    (ctrl cfg chip reg rw).toNat.testBit (i + 1) =
      (decide (i + 1 < 8) &&
        (decide (cfg.regAddrW ≤ i) && chip.testBit (i - cfg.regAddrW) || reg.testBit i)) := by
  have hrw : rw.toNat.testBit (i + 1) = false := by
    rw [Nat.testBit_succ]
    cases rw <;> simp
  simp only [ctrl, chipShift_eq h, BitVec.toNat_ofNat, Nat.testBit_mod_two_pow, Nat.testBit_or,
    Nat.testBit_shiftLeft, hrw]
  simp

/-- The chip address is the top bits of a control byte (R52). -/
theorem splitCtrl_chip_testBit (h : cfg.Valid) (c : Byte) (i : Nat) :
    (splitCtrl cfg c).chip.testBit i = c.toNat.testBit (cfg.regAddrW + i + 1) := by
  rw [splitCtrl, Nat.testBit_shiftRight, chipShift_eq h, Nat.add_right_comm]

/-- The register address is the bits between the chip address and R/W (R52). -/
theorem splitCtrl_reg_testBit (c : Byte) (i : Nat) :
    (splitCtrl cfg c).reg.testBit i = (decide (i < cfg.regAddrW) && c.toNat.testBit (i + 1)) := by
  rw [splitCtrl, Nat.testBit_mod_two_pow, Nat.testBit_shiftRight, Nat.add_comm]

/-- A chip address that fits its field is read back from the control byte, if the register address
leaves that field alone (R47, R52). -/
theorem splitCtrl_ctrl_chip (h : cfg.Valid) (rw : Bool)
    (hchip : chip < 2 ^ cfg.chipAddrW) (hreg : reg < 2 ^ cfg.regAddrW) :
    (splitCtrl cfg (ctrl cfg chip reg rw)).chip = chip := by
  have hwidths := regAddrW_add_chipAddrW h
  refine Nat.eq_of_testBit_eq fun i => ?_
  have hregBit : reg.testBit (cfg.regAddrW + i) = false :=
    Nat.testBit_lt_two_pow (hreg.trans_le (Nat.pow_le_pow_right Nat.two_pos (Nat.le_add_right _ i)))
  rw [splitCtrl_chip_testBit h, ctrl_testBit_succ h, hregBit]
  by_cases hi : i < cfg.chipAddrW
  · have hbyte : cfg.regAddrW + i + 1 < 8 := by omega
    simp [hbyte]
  · have hchipBit : chip.testBit i = false :=
      Nat.testBit_lt_two_pow
        (hchip.trans_le (Nat.pow_le_pow_right Nat.two_pos (Nat.le_of_not_lt hi)))
    simp [hchipBit]

/-- Fields that fit are read back from their control byte (R47, R52). -/
theorem splitCtrl_ctrl (h : cfg.Valid) (rw : Bool)
    (hchip : chip < 2 ^ cfg.chipAddrW) (hreg : reg < 2 ^ cfg.regAddrW) :
    splitCtrl cfg (ctrl cfg chip reg rw) = { chip := chip, reg := reg, rw := rw } := by
  rw [splitCtrl, ControlFields.mk.injEq]
  exact ⟨splitCtrl_ctrl_chip h rw hchip hreg, splitCtrl_ctrl_reg h chip rw hreg,
    splitCtrl_ctrl_rw h chip reg rw⟩

/-- A control byte is made again from its fields, which tile it (R47, R52). -/
theorem ctrl_splitCtrl (h : cfg.Valid) (c : Byte) :
    ctrl cfg (splitCtrl cfg c).chip (splitCtrl cfg c).reg (splitCtrl cfg c).rw = c := by
  refine BitVec.eq_of_toNat_eq (Nat.eq_of_testBit_eq fun i => ?_)
  cases i with
  | zero => exact ctrl_getLsbD_zero h _ _ _
  | succ i =>
    rw [ctrl_testBit_succ h, splitCtrl_chip_testBit h, splitCtrl_reg_testBit]
    by_cases hbyte : i + 1 < 8
    · by_cases hi : cfg.regAddrW ≤ i
      · simp [hbyte, hi, Nat.not_lt.mpr hi]
      · simp [hbyte, hi, Nat.lt_of_not_le hi]
    · have hout : c.toNat.testBit (i + 1) = false := BitVec.getLsbD_of_ge c (i + 1) (by omega)
      simp [hbyte, hout]

/-- Settles O3: the slices are R52's by definition, and the two round trips give the rest. -/
theorem controlByteDecodesToOneTriple : Obligations.ControlByteDecodesToOneTriple := by
  intro cfg c h
  refine ⟨Nat.shiftRight_eq_div_pow _ _, rfl, Nat.testBit_zero _, ctrl_splitCtrl h c, ?_⟩
  rintro chip reg rw hchip hreg rfl
  rw [splitCtrl_ctrl h rw hchip hreg]
  exact ⟨rfl, rfl, rfl⟩

/-! ### The rows of a request: its R/W bit, then its data byte decide (R51, R59) -/

variable {c d k : Byte} {i : Instr}

theorem decodeRequest16_write (hrw : (splitCtrl cfg c).rw = true) :
    decodeRequest16 cfg c d = .ok (.regwrF16 (splitCtrl cfg c).chip (splitCtrl cfg c).reg d) :=
  if_pos hrw

theorem decodeRequest16_read (hrw : (splitCtrl cfg c).rw = false) :
    decodeRequest16 cfg c 0x00 = .ok (.regrdF16 (splitCtrl cfg c).chip (splitCtrl cfg c).reg) :=
  (if_neg (ne_true_of_eq_false hrw)).trans (if_pos rfl)

theorem decodeRequest16_readData (hrw : (splitCtrl cfg c).rw = false) (hd : d ≠ 0x00) :
    decodeRequest16 cfg c d = .error .readDataNotZero :=
  (if_neg (ne_true_of_eq_false hrw)).trans (if_neg hd)

theorem decodeRequest24_write (hrw : (splitCtrl cfg c).rw = true) :
    decodeRequest24 cfg c d k = .ok (.regwrF24 (splitCtrl cfg c).chip (splitCtrl cfg c).reg d k) :=
  if_pos hrw

theorem decodeRequest24_read (hrw : (splitCtrl cfg c).rw = false) :
    decodeRequest24 cfg c 0x00 k = .ok (.regrdF24 (splitCtrl cfg c).chip (splitCtrl cfg c).reg k) :=
  (if_neg (ne_true_of_eq_false hrw)).trans (if_pos rfl)

theorem decodeRequest24_readData (hrw : (splitCtrl cfg c).rw = false) (hd : d ≠ 0x00) :
    decodeRequest24 cfg c d k = .error .readDataNotZero :=
  (if_neg (ne_true_of_eq_false hrw)).trans (if_neg hd)

/-! ### Bytes that are no frame -/

/-- No other length is a frame, in either direction (R45). -/
theorem decodeFrame_badLength (dir : Dir) (bytes : List Byte) (h2 : bytes.length ≠ 2)
    (h3 : bytes.length ≠ 3) : decodeFrame cfg dir bytes = .error .badLength := by
  rcases bytes with _ | ⟨_, _ | ⟨_, _ | ⟨_, _ | _⟩⟩⟩
  · cases dir <;> rfl
  · cases dir <;> rfl
  · exact absurd rfl h2
  · exact absurd rfl h3
  · cases dir <;> rfl

/-- Settles O6: with R/W = 0 and a data byte other than 0x00 a request of either length is neither a
write nor a read. -/
theorem noOtherBytesAreFrames : Obligations.NoOtherBytesAreFrames := by
  refine ⟨fun _ => decodeFrame_badLength, fun cfg c d rest hlen hrw hd => ?_⟩
  rcases rest with _ | ⟨k, _ | _⟩
  · exact decodeRequest16_readData hrw hd
  · exact decodeRequest24_readData hrw hd
  · exact absurd (Nat.le_of_succ_le_succ hlen) (Nat.not_succ_le_zero _)

/-! ### Decoding what was encoded -/

/-- A request of two bytes, encoded from fields that fit (R46, R51). -/
theorem decodeRequest16_ctrl (h : cfg.Valid)
    (hfits : (chipFits cfg chip && regFits cfg reg) = true) :
    (∀ data, decodeRequest16 cfg (ctrl cfg chip reg true) data =
        .ok (.regwrF16 chip reg data)) ∧
      decodeRequest16 cfg (ctrl cfg chip reg false) 0x00 = .ok (.regrdF16 chip reg) := by
  obtain ⟨hchip, hreg⟩ := fieldsFit_iff.mp hfits
  have hsplit rw := splitCtrl_ctrl h rw hchip hreg
  constructor
  · intro data
    rw [decodeRequest16_write (congrArg ControlFields.rw (hsplit true)), hsplit]
  · rw [decodeRequest16_read (congrArg ControlFields.rw (hsplit false)), hsplit]

/-- A request of three bytes, encoded from fields that fit, with any CRC byte (R48, R51). -/
theorem decodeRequest24_ctrl (h : cfg.Valid) (crc : Byte)
    (hfits : (chipFits cfg chip && regFits cfg reg) = true) :
    (∀ data, decodeRequest24 cfg (ctrl cfg chip reg true) data crc =
        .ok (.regwrF24 chip reg data crc)) ∧
      decodeRequest24 cfg (ctrl cfg chip reg false) 0x00 crc = .ok (.regrdF24 chip reg crc) := by
  obtain ⟨hchip, hreg⟩ := fieldsFit_iff.mp hfits
  have hsplit rw := splitCtrl_ctrl h rw hchip hreg
  constructor
  · intro data
    rw [decodeRequest24_write (congrArg ControlFields.rw (hsplit true)), hsplit]
  · rw [decodeRequest24_read (congrArg ControlFields.rw (hsplit false)), hsplit]

/-- Settles O1: the fields of a well-formed request fit, so its control byte is read back; a response's
bytes are its operands. -/
theorem frameDecodeEncodeRoundTrip : Obligations.FrameDecodeEncodeRoundTrip := by
  intro cfg i bytes h hwf henc
  cases i with
  | regwrF16 chip reg data =>
    cases henc
    exact (decodeRequest16_ctrl h hwf).1 data
  | regrdF16 chip reg =>
    cases henc
    exact (decodeRequest16_ctrl h hwf).2
  | regwrF24 chip reg data crc =>
    cases henc
    obtain ⟨hfits, -⟩ := (Bool.and_eq_true _ _).mp hwf
    exact (decodeRequest24_ctrl h crc hfits).1 data
  | regrdF24 chip reg crc =>
    cases henc
    obtain ⟨hfits, -⟩ := (Bool.and_eq_true _ _).mp hwf
    exact (decodeRequest24_ctrl h crc hfits).2
  | rspR16 rx0 rdata =>
    cases henc
    rfl
  | rspR24 rx0 rdata rcrc =>
    cases henc
    rfl
  | _ => cases henc

/-! ### Encoding what was decoded -/

theorem ctrl_of_splitCtrl_rw (h : cfg.Valid) {rw : Bool} (hrw : (splitCtrl cfg c).rw = rw) :
    ctrl cfg (splitCtrl cfg c).chip (splitCtrl cfg c).reg rw = c :=
  hrw ▸ ctrl_splitCtrl h c

/-- A request of two bytes is a write, or a read with a zero data byte (R51, R59). -/
theorem encode_of_decodeRequest16 (h : cfg.Valid) (hi : decodeRequest16 cfg c d = .ok i) :
    encode cfg i = some [c, d] ∧ i.dir = .outbound := by
  cases hrw : (splitCtrl cfg c).rw with
  | true =>
    cases (decodeRequest16_write hrw).symm.trans hi
    exact ⟨congrArg (fun b => some [b, d]) (ctrl_of_splitCtrl_rw h hrw), rfl⟩
  | false =>
    by_cases hd : d = 0x00
    · subst hd
      cases (decodeRequest16_read hrw).symm.trans hi
      exact ⟨congrArg (fun b => some [b, 0x00]) (ctrl_of_splitCtrl_rw h hrw), rfl⟩
    · cases (decodeRequest16_readData hrw hd).symm.trans hi

/-- So is a request of three bytes, whose CRC byte is an operand (R48, R51, R59). -/
theorem encode_of_decodeRequest24 (h : cfg.Valid) (hi : decodeRequest24 cfg c d k = .ok i) :
    encode cfg i = some [c, d, k] ∧ i.dir = .outbound := by
  cases hrw : (splitCtrl cfg c).rw with
  | true =>
    cases (decodeRequest24_write hrw).symm.trans hi
    exact ⟨congrArg (fun b => some [b, d, k]) (ctrl_of_splitCtrl_rw h hrw), rfl⟩
  | false =>
    by_cases hd : d = 0x00
    · subst hd
      cases (decodeRequest24_read hrw).symm.trans hi
      exact ⟨congrArg (fun b => some [b, 0x00, k]) (ctrl_of_splitCtrl_rw h hrw), rfl⟩
    · cases (decodeRequest24_readData hrw hd).symm.trans hi

/-- Settles O2: by the formats of the decoder, a request's control byte being made again from its
fields. -/
theorem decodedFrameEncodesBack : Obligations.DecodedFrameEncodesBack := by
  intro cfg dir bytes i h hd
  by_cases h2 : bytes.length = 2
  · obtain ⟨x, d, rfl⟩ := List.length_eq_two.mp h2
    cases dir with
    | outbound => exact encode_of_decodeRequest16 h hd
    | inbound =>
      cases hd
      exact ⟨rfl, rfl⟩
  by_cases h3 : bytes.length = 3
  · obtain ⟨x, d, k, rfl⟩ := List.length_eq_three.mp h3
    cases dir with
    | outbound => exact encode_of_decodeRequest24 h hd
    | inbound =>
      cases hd
      exact ⟨rfl, rfl⟩
  · cases (decodeFrame_badLength dir bytes h2 h3).symm.trans hd

/-- Settles O5, by running the decoder. -/
theorem knownWordsDecode : Obligations.KnownWordsDecode :=
  ⟨rfl, rfl, rfl, rfl, rfl, rfl⟩

/-! ### A request frame of the block's own is its register operation -/

/-- ENCODE puts a frame of the block's own in the buffer as it puts the request it builds from the two
bytes: with CRC off the third byte is not written (R13), with CRC on it is the one of R48. -/
theorem State.load_own (h : s.ownFrame src = true) :
    s.load src = s.load (requestBytes s.cfg src.b0 src.b1) := by
  have hfb : fbStore s.fb src s.crcEn =
      fbStore s.fb (requestBytes s.cfg src.b0 src.b1) s.crcEn := by
    cases hc : s.crcEn with
    | false => rfl
    | true => exact congrArg (FrameBuffer.mk src.b0 src.b1) (State.ownFrame_iff.mp h hc)
  exact congrArg (fun fb => { s with phase := .encode, fb := fb }) hfb

variable {data crc : Byte}

/-- Such a write frame is sent as the sequencer sends its own (R72). -/
theorem State.sendWrite_own
    (h : s.ownFrame { b0 := ctrl s.cfg s.chipAddr reg true, b1 := data, b2 := crc } = true)
    (hreg : regValid s.cfg reg = true) :
    s.sendWrite { b0 := ctrl s.cfg s.chipAddr reg true, b1 := data, b2 := crc }
        (s.ownFrame { b0 := ctrl s.cfg s.chipAddr reg true, b1 := data, b2 := crc }) =
      s.writeRegister reg data := by
  rw [State.writeRegister_valid hreg, h]
  exact congrArg (fun u : State => (u.exchange true).map writeEnd) (State.load_own h)

/-- Such a read frame is sent as the sequencer sends its own (R71). -/
theorem State.sendRead_own
    (h : s.ownFrame { b0 := ctrl s.cfg s.chipAddr reg false, b1 := 0x00, b2 := crc } = true)
    (hreg : regValid s.cfg reg = true) :
    s.sendRead { b0 := ctrl s.cfg s.chipAddr reg false, b1 := 0x00, b2 := crc }
        (s.ownFrame { b0 := ctrl s.cfg s.chipAddr reg false, b1 := 0x00, b2 := crc }) =
      s.readRegister reg := by
  rw [State.readRegister_valid hreg, h]
  exact congrArg (fun u : State => (u.exchange true).map readEnd) (State.load_own h)

/-- A write frame with the CRC of R48 is REG.WRITE (R65, R72; log 13). -/
theorem State.onWriteFrame_own (hv : s.cfg.Valid) (h : s.Ready)
    (hchip : chipFits s.cfg s.chipAddr = true) (hreg : reg ≤ s.cfg.regAddrMax) (hmode : s.crcEn = mode)
    (hcrc : mode = true → crc = crc8 s.cfg (ctrl s.cfg s.chipAddr reg true) data .outbound) :
    s.onWriteFrame mode s.chipAddr reg data crc = execRegWrite (.direct reg) data s := by
  have hvalid : regValid s.cfg reg = true := decide_eq_true hreg
  have hown : State.ownFrame { s with busy := true, phase := .check }
      { b0 := ctrl s.cfg s.chipAddr reg true, b1 := data, b2 := crc } = true :=
    State.ownFrame_iff.mpr fun hc => hcrc (hmode.symm.trans hc)
  refine (State.onFrame_own hv h hchip hreg hmode).trans (.trans ?_ (State.onInstance_ready h).symm)
  exact congrArg (finish ∘ Option.map asUnit) (State.sendWrite_own hown hvalid)

/-- A read frame with the CRC of R48 is REG.READ (R66, R71; log 13). -/
theorem State.onReadFrame_own (hv : s.cfg.Valid) (h : s.Ready)
    (hchip : chipFits s.cfg s.chipAddr = true) (hreg : reg ≤ s.cfg.regAddrMax) (hmode : s.crcEn = mode)
    (hcrc : mode = true → crc = crc8 s.cfg (ctrl s.cfg s.chipAddr reg false) 0x00 .outbound) :
    s.onReadFrame mode s.chipAddr reg crc = execRegRead (.direct reg) s := by
  have hvalid : regValid s.cfg reg = true := decide_eq_true hreg
  have hown : State.ownFrame { s with busy := true, phase := .check }
      { b0 := ctrl s.cfg s.chipAddr reg false, b1 := 0x00, b2 := crc } = true :=
    State.ownFrame_iff.mpr fun hc => hcrc (hmode.symm.trans hc)
  refine (State.onFrame_own hv h hchip hreg hmode).trans (.trans ?_ (State.onInstance_ready h).symm)
  exact congrArg (finish ∘ Option.map asByte) (State.sendRead_own hown hvalid)

/-- Settles O31: such a frame is the block's own in either mode, with CRC off whatever its unused third
byte. -/
theorem frameRowIsItsOperation : Obligations.FrameRowIsItsOperation := by
  intro s reg data hv h hchip hreg
  refine ⟨fun hoff => ⟨?_, ?_⟩, fun hon => ⟨?_, ?_⟩⟩
  · exact State.onWriteFrame_own hv h hchip hreg hoff (absurd · Bool.false_ne_true)
  · exact State.onReadFrame_own hv h hchip hreg hoff (absurd · Bool.false_ne_true)
  · exact State.onWriteFrame_own hv h hchip hreg hon fun _ => rfl
  · exact State.onReadFrame_own hv h hchip hreg hon fun _ => rfl

/-! ### The codec -/

/-- Settles O12: the encoder's own check decides, and its frame is the one of R51 and R48. -/
theorem encReadZeroFillsTheDataByte : Obligations.EncReadZeroFillsTheDataByte := by
  intro s chip reg c
  refine ⟨fun hchip hreg => ?_, fun hwide => ?_⟩
  · exact if_pos (fieldsFit_iff.mpr ⟨hchip, hreg⟩)
  · exact if_neg (mt fieldsFit_iff.mp hwide)

/-- With CRC on, `integrity_ok` is the comparison of the third byte with the inbound CRC (R67). -/
theorem integrityOk_on (f0 f1 f2 : Byte) :
    integrityOk cfg f0 f1 f2 true = decide (f2 = crc8 cfg f0 f1 .inbound) :=
  decide_eq_decide.mpr (eq_comm (a := crc8 cfg f0 f1 .inbound))

/-- Settles O15: a response has the length of its mode, so its parse is never the rejection. -/
theorem responseFramesAreParsed : Obligations.ResponseFramesAreParsed := by
  intro s rx0 rdata rcrc
  refine ⟨rfl, ?_⟩
  rw [← integrityOk_on]
  rfl

end Sys2Proof.Machine
end

section
/-! PROOFS. The frame codec (R65, R67 to R70): what an encoder and the decoder answer, a write looped back
through both, and the initial value as the one thing in which the two directions' CRCs differ (R60 to
R62). -/

namespace Sys2Proof.Machine

variable {cfg : Config} {s : State} {chip reg : Nat} {poly : Byte}

/-! ### The CRC tells initial values apart -/

/-- The bit shifted out enters again with the polynomial, whose bit 0 is 1 (R8, R60). -/
theorem crcShift_getLsbD_zero (h : poly.getLsbD 0 = true) (c : Byte) :
    (crcShift poly c).getLsbD 0 = c.getLsbD 7 := by
  unfold crcShift
  cases h7 : c.getLsbD 7 <;> simp [h]

/-- So one step of the loop loses nothing. -/
theorem crcShift_injective (h : poly.getLsbD 0 = true) : Function.Injective (crcShift poly) := by
  intro a b hab
  have h7 : a.getLsbD 7 = b.getLsbD 7 := by
    rw [← crcShift_getLsbD_zero h a, ← crcShift_getLsbD_zero h b, hab]
  have hshift : a <<< 1 = b <<< 1 := by
    unfold crcShift at hab
    rw [h7] at hab
    split at hab
    · exact (BitVec.xor_left_inj _).mp hab
    · exact hab
  refine BitVec.eq_of_getLsbD_eq fun i hi => ?_
  by_cases hi7 : i = 7
  · exact hi7 ▸ h7
  · have hbit := congrArg (BitVec.getLsbD · (i + 1)) hshift
    have hbyte : i + 1 < 8 := by omega
    simpa [hbyte, BitVec.getLsbD_eq_getElem hi] using hbit

theorem crcShifts_injective (h : poly.getLsbD 0 = true) (n : Nat) :
    Function.Injective (crcShifts poly n) := by
  induction n with
  | zero => exact Function.injective_id
  | succ n ih => exact ih.comp (crcShift_injective h)

/-- A byte taken in keeps two working registers apart. -/
theorem crcByte_injective (h : cfg.crcPoly.getLsbD 0 = true) (b : Byte) :
    Function.Injective (crcByte cfg · b) :=
  (crcShifts_injective h 8).comp fun _ _ => (BitVec.xor_left_inj _).mp

theorem rev8_injective : Function.Injective rev8 :=
  Function.Involutive.injective (f := rev8) fun _ => BitVec.reverse_reverse_eq

theorem crcFinish_injective (cfg : Config) : Function.Injective (crcFinish cfg) := by
  intro a b hab
  have hrev := (BitVec.xor_left_inj _).mp hab
  split at hrev
  · exact rev8_injective hrev
  · exact hrev

/-- Two directions give one pair of bytes one CRC exactly when their initial values are equal (R61, R70). -/
theorem crc8_eq_iff_crcInit_eq (h : cfg.Valid) (b0 b1 : Byte) (dir dir' : Dir) :
    crc8 cfg b0 b1 dir = crc8 cfg b0 b1 dir' ↔ crcInit cfg dir = crcInit cfg dir' := by
  obtain ⟨-, -, -, -, hpoly, -⟩ := h
  exact ((crcFinish_injective cfg).comp
    ((crcByte_injective hpoly b1).comp (crcByte_injective hpoly b0))).eq_iff

/-! ### What the codec answers -/

/-- ENC.WRITE with operands that fit (R65). -/
theorem exec_encWrite_fits (hchip : chip < 2 ^ s.cfg.chipAddrW) (hreg : reg < 2 ^ s.cfg.regAddrW)
    (data : Byte) (c : Bool) :
    exec (.encWrite chip reg data c) s =
      .next (s.answerPure (.ok (.bytes (encWrite s.cfg chip reg data c)))) :=
  if_pos (fieldsFit_iff.mpr ⟨hchip, hreg⟩)

/-- Settles O13: the encoder's own check decides, and its frame is the one of R46 and R48. -/
theorem encWriteBuildsTheFrame : Obligations.EncWriteBuildsTheFrame := by
  intro s chip reg data c
  refine ⟨fun hchip hreg => exec_encWrite_fits hchip hreg data c, fun hwide => ?_⟩
  exact if_neg (mt fieldsFit_iff.mp hwide)

/-- DEC.RESP always answers, with the parse of its buffer (R67). -/
theorem exec_decResp (f : List Byte) (c : Bool) (s : State) :
    exec (.decResp f c) s = .next (s.answerPure (decodedResult (decResp s.cfg f c))) := rfl

/-- A buffer shorter than the frame is rejected (R68). -/
theorem decResp_short {f : List Byte} {c : Bool} (h : f.length < flen c) :
    decResp cfg f c = .error .invalidArgument :=
  if_pos h

/-- With CRC off two bytes are enough, and the rest is not read (R67, U11). -/
theorem decResp_off (f0 f1 : Byte) (rest : List Byte) :
    decResp cfg (f0 :: f1 :: rest) false = .ok (f1, true) :=
  if_neg (Nat.not_lt.mpr (Nat.le_add_left 2 rest.length))

/-- With CRC on three bytes are enough, and the rest is not read (R67, U11). -/
theorem decResp_on (f0 f1 f2 : Byte) (rest : List Byte) :
    decResp cfg (f0 :: f1 :: f2 :: rest) true =
      .ok (f1, decide (crc8 cfg f0 f1 .inbound = f2)) :=
  if_neg (Nat.not_lt.mpr (Nat.le_add_left 3 rest.length))

/-- Settles O14: the length decides first, then the mode (R67, R68). -/
theorem decodeResponseCompletes : Obligations.DecodeResponseCompletes := by
  intro s f c
  refine ⟨fun hshort => ?_, ?_, ?_⟩
  · rw [exec_decResp, decResp_short hshort]
    rfl
  · rintro f0 f1 rest rfl rfl
    rw [exec_decResp, decResp_off]
    rfl
  · rintro f0 f1 f2 rest rfl rfl
    rw [exec_decResp, decResp_on]
    rfl

/-- A request read as a response of its own mode gives its data byte, and its outbound CRC is compared with
the inbound one (R70). -/
theorem decResp_requestFrame (cfg : Config) (b d : Byte) (c : Bool) :
    decResp cfg (requestFrame cfg b d c) c =
      .ok (d, integrityOk cfg b d (crc8 cfg b d .outbound) c) := by
  cases c with
  | false => exact decResp_off b d []
  | true => exact decResp_on b d _ []

/-- Settles O16: the decoder reads the encoder's frame, and the two directions' CRCs differ by their initial
values only. -/
theorem encodedWriteRoundTripsData : Obligations.EncodedWriteRoundTripsData := by
  intro s chip reg data c hv hchip hreg
  have hok := integrityOk_iff s.cfg (ctrl s.cfg chip reg true) data
    (crc8 s.cfg (ctrl s.cfg chip reg true) data .outbound) c
  have hinit f0 f1 := crc8_eq_iff_crcInit_eq hv f0 f1 .outbound .inbound
  refine ⟨_, _, _, _, exec_encWrite_fits hchip hreg data c, rfl, exec_decResp _ c _,
    congrArg (some ∘ decodedResult) (decResp_requestFrame s.cfg _ data c), ?_, ?_, ?_⟩
  · rintro rfl
    exact hok.mpr (absurd · Bool.false_ne_true)
  · intro hon
    exact hok.trans ⟨fun h => (h hon).symm, fun h _ => h.symm⟩
  · exact ⟨fun h => (hinit 0 0).mp (h 0 0), fun h f0 f1 => (hinit f0 f1).mpr h⟩

/-! ### Purity -/

/-- Settles O17: a pure function answers by its operands and the parameters alone. -/
theorem pureOperationsChangeOnlyTheResult : Obligations.PureOperationsChangeOnlyTheResult := by
  intro i s s' t hp hn hcfg
  rcases exec_pure hp s with ⟨r, hr⟩ | ⟨e, he⟩
  · cases (hr s rfl).symm.trans hn
    exact ⟨rfl, hr s' hcfg⟩
  · cases (he s rfl).symm.trans hn

end Sys2Proof.Machine
end

section
/-! PROOFS. The register access operations (R71 to R78): an operand that stands for no register is rejected
with nothing touched, a read or a write of any other is one exchange whose end state is written out once, and
an update is a read followed by a write. -/

namespace Sys2Proof.Machine

variable {s t : State} {op : RegOperand} {reg : Nat} {data mask value : Byte} {d : Draw} {i : Instr}

/-! ### Entry, and the operand -/

/-- What needs LIVE = 1 and goes on was let in (R18, R19). -/
theorem ready_of_exec_next (hi : needsInstance i = true) (hn : exec i s = .next t) : s.Ready := by
  by_contra h
  obtain ⟨body, hbody⟩ := exec_notReady hi h
  exact h (State.onInstance_next (hbody ▸ hn)).1

/-- The operand stands for no register of the device: its channel is out of range, or its address above
`REG_ADDR_MAX` (R74, R75). -/
def State.Rejects (s : State) (op : RegOperand) : Prop :=
  ∀ reg, operandAddress s.chCount op = .ok reg → s.cfg.regAddrMax < reg

theorem State.rejects_of_above (ha : operandAddress s.chCount op = .ok reg)
    (hreg : s.cfg.regAddrMax < reg) : s.Rejects op := by
  intro reg' ha'
  cases ha.symm.trans ha'
  exact hreg

theorem State.not_rejects (ha : operandAddress s.chCount op = .ok reg) (hreg : reg ≤ s.cfg.regAddrMax) :
    ¬s.Rejects op :=
  fun h => Nat.not_lt.mpr hreg (h reg ha)

theorem State.addresses_of_not_rejects (h : ¬s.Rejects op) :
    ∃ reg, operandAddress s.chCount op = .ok reg ∧ reg ≤ s.cfg.regAddrMax := by
  by_contra hno
  exact h fun reg ha => Nat.lt_of_not_le fun hreg => hno ⟨reg, ha, hreg⟩

/-- Forming an address fails in one way only (R75). -/
theorem operandAddress_error {n : Nat} {k : ErrorKind} (h : operandAddress n op = .error k) :
    k = .invalidArgument := by
  cases op with
  | direct reg => cases h
  | banked base ch =>
    by_cases hch : n ≤ ch
    · cases (if_pos hch).symm.trans h
      rfl
    · cases (if_neg hch).symm.trans h

variable {α : Type} {body : Nat → Option (State × Except ErrorKind α)}

theorem State.atOperand_ok (ha : operandAddress s.chCount op = .ok reg) :
    s.atOperand op body = body reg := by
  rw [State.atOperand, ha]

theorem State.atOperand_error {k : ErrorKind} (ha : operandAddress s.chCount op = .error k) :
    s.atOperand op body = some (s, .error k) := by
  rw [State.atOperand, ha]

/-- A body that makes the check of R74 does nothing on an operand that stands for no register. -/
theorem State.atOperand_rejects (h : s.Rejects op)
    (hbody : ∀ a, regValid s.cfg a = false → body a = some (s, .error .invalidArgument)) :
    s.atOperand op body = some (s, .error .invalidArgument) := by
  cases ha : operandAddress s.chCount op with
  | error k => rw [State.atOperand_error ha, operandAddress_error ha]
  | ok reg =>
    rw [State.atOperand_ok ha]
    exact hbody reg (decide_eq_false (Nat.not_le.mpr (h reg ha)))

theorem State.updateRegister_invalid (h : regValid s.cfg reg = false) :
    s.updateRegister reg mask value = some (s, .error .invalidArgument) := by
  rw [State.updateRegister_eq, State.readRegister_invalid h]
  rfl

/-- The state in which an operation's body begins (R19, R20). -/
abbrev State.entered (s : State) : State := { s with busy := true, phase := .check }

theorem exec_regRead_ready (h : s.Ready) :
    exec (.regRead op) s = finish ((s.entered.atOperand op s.entered.readRegister).map asByte) :=
  (State.onInstance_ready h : execRegRead op s = _)

theorem exec_regWrite_ready (h : s.Ready) :
    exec (.regWrite op data) s =
      finish ((s.entered.atOperand op fun a => s.entered.writeRegister a data).map asUnit) :=
  (State.onInstance_ready h : execRegWrite op data s = _)

theorem exec_regUpdate_ready (h : s.Ready) :
    exec (.regUpdate op mask value) s =
      finish ((s.entered.atOperand op fun a => s.entered.updateRegister a mask value).map asUnit) :=
  (State.onInstance_ready h : execRegUpdate op mask value s = _)

/-- The debug path runs the register operations on a direct operand (R76, R77). -/
theorem exec_dbgRead (s : State) (addr : Nat) :
    exec (.dbgRead addr) s = exec (.regRead (.direct addr)) s := rfl

theorem exec_dbgWrite (s : State) (addr : Nat) (data : Byte) :
    exec (.dbgWrite addr data) s = exec (.regWrite (.direct addr) data) s := rfl

/-! ### A rejected operand is the error, and nothing else is done (R74, R107) -/

theorem exec_regRead_rejects (h : s.Ready) (hop : s.Rejects op) :
    exec (.regRead op) s = .next (s.raise .invalidArgument) := by
  rw [exec_regRead_ready h, State.atOperand_rejects (s := s.entered) hop fun _ => State.readRegister_invalid]
  rfl

theorem exec_regWrite_rejects (h : s.Ready) (hop : s.Rejects op) :
    exec (.regWrite op data) s = .next (s.raise .invalidArgument) := by
  rw [exec_regWrite_ready h, State.atOperand_rejects (s := s.entered) hop fun _ => State.writeRegister_invalid]
  rfl

theorem exec_regUpdate_rejects (h : s.Ready) (hop : s.Rejects op) :
    exec (.regUpdate op mask value) s = .next (s.raise .invalidArgument) := by
  rw [exec_regUpdate_ready h, State.atOperand_rejects (s := s.entered) hop fun _ => State.updateRegister_invalid]
  rfl

/-- At rest an error changes the result only. -/
theorem State.raise_of_rest (hb : s.busy = false) (hp : s.phase = .idle) (k : ErrorKind) :
    s.raise k = { s with result := some (.err k) } :=
  congrArg₂ (fun p b => { s with phase := p, busy := b, result := some (.err k) }) hp.symm hb.symm

/-- Settles O26: DBG.READ and DBG.WRITE have the meaning of the register operations on a direct operand. -/
theorem debugPathIsTheRegisterPath : Obligations.DebugPathIsTheRegisterPath :=
  fun s addr val => ⟨exec_dbgRead s addr, exec_dbgWrite s addr val⟩

/-- Settles O27: the check of R74 comes first in every operation, the debug ones being register operations on
a direct operand. -/
theorem invalidAddressTouchesNothing : Obligations.InvalidAddressTouchesNothing := by
  intro s op reg data mask value i h hp ha hreg hi
  have hop := State.rejects_of_above ha hreg
  have hdirect : s.Rejects (.direct reg) := State.rejects_of_above rfl hreg
  rw [← State.raise_of_rest h.2 hp]
  rcases hi with rfl | rfl | rfl | rfl | rfl
  · exact exec_regRead_rejects h hop
  · exact exec_regWrite_rejects h hop
  · exact exec_regUpdate_rejects h hop
  · exact (exec_dbgRead s reg).trans (exec_regRead_rejects h hdirect)
  · exact (exec_dbgWrite s reg data).trans (exec_regWrite_rejects h hdirect)

/-! ### The end of an access -/

/-- The state in which an operation that sent `src`, got the answer of `d` and returns `r` ends (R71,
R72). -/
def State.accessed (s : State) (src : FrameBuffer) (own : Bool) (d : Draw) (r : Result) : State :=
  ((s.load src).exchanged own d).conclude r

theorem State.accessed_exchangesOnly (s : State) (src : FrameBuffer) (own : Bool) (d : Draw) (r : Result) :
    ExchangesOnly s (s.accessed src own d r) :=
  ExchangesOnly.exchanged s src own d

/-- What holds at the end of an access, on the block's side: the frame `f` was sent once, the answer used up,
`FB` is the response or, after a failure, the frame sent, and nothing else moved (R13, R71, R72, R107; log
18). -/
theorem State.accessed_completes {src : FrameBuffer} {f : List Byte} (own : Bool) (d : Draw) (r : Result)
    (hf : fbFrame src s.crcEn = f) :
    (s.accessed src own d r).result = some r ∧ (s.accessed src own d r).sent = s.sent ++ [f] ∧
      (s.accessed src own d r).script = s.script.tail ∧ (s.accessed src own d r).busy = false ∧
      (s.accessed src own d r).phase = .idle ∧ SameConfiguration s (s.accessed src own d r) ∧
      (∀ rx, d.answer = .ok rx → (s.accessed src own d r).fb = fbStore s.fb rx s.crcEn) ∧
      ∀ e, d.answer = .fail e → fbFrame (s.accessed src own d r).fb s.crcEn = f := by
  subst hf
  have hloaded := fbFrame_fbStore s.fb src s.crcEn
  have hfb : (s.accessed src own d r).fb = fbAfter (fbStore s.fb src s.crcEn) s.crcEn d.answer := rfl
  refine ⟨rfl, congrArg (s.sent ++ [·]) hloaded, rfl, rfl, rfl,
    (s.accessed_exchangesOnly src own d r).configuration, fun rx hrx => ?_, fun e he => ?_⟩
  · rw [hfb, hrx]
    exact fbStore_fbStore s.fb src rx s.crcEn
  · rw [hfb, he]
    exact hloaded

/-- Where a register read answered by `d` ends (R71). -/
def State.readDone (s : State) (reg : Nat) (d : Draw) : State :=
  s.accessed (requestBytes s.cfg (ctrl s.cfg s.chipAddr reg false) 0x00) true d
    (readResult s.cfg s.crcEn d.answer)

/-- Where a register write answered by `d` ends (R72). -/
def State.writeDone (s : State) (reg : Nat) (data : Byte) (d : Draw) : State :=
  s.accessed (requestBytes s.cfg (ctrl s.cfg s.chipAddr reg true) data) true d (writeResult d.answer)

theorem State.readDone_result :
    (s.readDone reg d).result = some (readResult s.cfg s.crcEn d.answer) := rfl

theorem State.writeDone_result :
    (s.writeDone reg data d).result = some (writeResult d.answer) := rfl

theorem State.readDone_sent :
    (s.readDone reg d).sent = s.sent ++ [encRead s.cfg s.chipAddr reg s.crcEn] :=
  State.exchanged_sent s _ _ true d

theorem State.writeDone_sent :
    (s.writeDone reg data d).sent = s.sent ++ [encWrite s.cfg s.chipAddr reg data s.crcEn] :=
  State.exchanged_sent s _ _ true d

/-- What a read returns, said over the answer (R71). -/
theorem resultOf_readOutcome (cfg : Config) (fb : FrameBuffer) (c : Bool) (a : Answer) :
    resultOf ((readOutcome cfg (fbAfter fb c a) c a).map .byte) = readResult cfg c a := by
  cases a with
  | fail e => rfl
  | ok rx =>
    exact (congrArg (fun o => resultOf (o.map .byte)) (readOutcome_ok cfg fb rx c)).trans
      (apply_ite (fun o => resultOf (Except.map Value.byte o)) _ _ _)

/-- What a write returns, said over the answer (R72). -/
theorem resultOf_writeOutcome (a : Answer) :
    resultOf ((writeOutcome a).map fun _ => .unit) = writeResult a := by
  cases a <;> rfl

theorem readResult_ne_invalidArgument (cfg : Config) (c : Bool) (a : Answer) :
    readResult cfg c a ≠ .err .invalidArgument := by
  intro h
  cases a with
  | fail e => cases h
  | ok rx =>
    by_cases hbad : c = true ∧ crc8 cfg rx.b0 rx.b1 .inbound ≠ rx.b2
    · cases (if_pos hbad).symm.trans h
    · cases (if_neg hbad).symm.trans h

theorem writeResult_ne_invalidArgument (a : Answer) : writeResult a ≠ .err .invalidArgument := by
  intro h
  cases a <;> cases h

/-- An intact response is its data byte (R71). -/
theorem readResult_intact {cfg : Config} {c : Bool} {rx : FrameBuffer} (h : Intact cfg c rx) :
    readResult cfg c (.ok rx) = .ok (.byte rx.b1) :=
  if_neg fun hbad => hbad.2 (h hbad.1)

/-! ### A read and a write, run -/

/-- An operation of one exchange that goes on had its answer. -/
theorem exists_draw_of_next {o : Option Draw} {done : Draw → State} {r : Fault}
    (h : o.elim (.fault r) (fun d => .next (done d)) = (.next t : StepOutcome)) :
    ∃ d, o = some d ∧ t = done d := by
  cases o with
  | none => cases h
  | some d =>
    cases h
    exact ⟨d, rfl, rfl⟩

/-- A read frame, from ENCODE to the return (R71), unless its exchange never returns (U18). -/
theorem finish_sendRead (s : State) (src : FrameBuffer) (own : Bool) :
    finish ((s.sendRead src own).map asByte) =
      s.nextDraw.elim (.fault .exchangeNeverReturned) fun d =>
        .next (s.accessed src own d (readResult s.cfg s.crcEn d.answer)) := by
  rw [State.sendRead_eq]
  cases s.nextDraw with
  | none => rfl
  | some d =>
    exact congrArg (fun r => (Host.Outcome.next (s.accessed src own d r) : StepOutcome))
      (resultOf_readOutcome s.cfg (fbStore s.fb src s.crcEn) s.crcEn d.answer)

/-- A write frame, from ENCODE to the return (R72), unless its exchange never returns (U18). -/
theorem finish_sendWrite (s : State) (src : FrameBuffer) (own : Bool) :
    finish ((s.sendWrite src own).map asUnit) =
      s.nextDraw.elim (.fault .exchangeNeverReturned) fun d =>
        .next (s.accessed src own d (writeResult d.answer)) := by
  rw [State.sendWrite_eq]
  cases s.nextDraw with
  | none => rfl
  | some d =>
    exact congrArg (fun r => (Host.Outcome.next (s.accessed src own d r) : StepOutcome))
      (resultOf_writeOutcome d.answer)

/-- REG.READ of a valid address (R71). -/
theorem exec_regRead_valid (h : s.Ready) (ha : operandAddress s.chCount op = .ok reg)
    (hreg : reg ≤ s.cfg.regAddrMax) :
    exec (.regRead op) s =
      s.nextDraw.elim (.fault .exchangeNeverReturned) fun d => .next (s.readDone reg d) := by
  rw [exec_regRead_ready h, State.atOperand_ok (s := s.entered) ha,
    State.readRegister_valid (s := s.entered) (decide_eq_true hreg)]
  exact finish_sendRead s.entered _ true

/-- REG.WRITE to a valid address (R72). -/
theorem exec_regWrite_valid (h : s.Ready) (ha : operandAddress s.chCount op = .ok reg)
    (hreg : reg ≤ s.cfg.regAddrMax) :
    exec (.regWrite op data) s =
      s.nextDraw.elim (.fault .exchangeNeverReturned) fun d => .next (s.writeDone reg data d) := by
  rw [exec_regWrite_ready h, State.atOperand_ok (s := s.entered) ha,
    State.writeRegister_valid (s := s.entered) (decide_eq_true hreg)]
  exact finish_sendWrite s.entered _ true

/-- A read of a valid address that is answered, by either path (R71, R76). -/
theorem exec_read_answered (h : s.Ready) (ha : operandAddress s.chCount op = .ok reg)
    (hreg : reg ≤ s.cfg.regAddrMax) (hd : s.nextDraw = some d) (hi : i = .regRead op ∨ i = .dbgRead reg) :
    exec i s = .next (s.readDone reg d) := by
  have hrun op' (ha' : operandAddress s.chCount op' = .ok reg) :
      exec (.regRead op') s = .next (s.readDone reg d) := by
    rw [exec_regRead_valid h ha' hreg, hd]
    rfl
  rcases hi with rfl | rfl
  · exact hrun op ha
  · exact hrun (.direct reg) rfl

/-- A write to a valid address that is answered, by either path (R72, R77). -/
theorem exec_write_answered (h : s.Ready) (ha : operandAddress s.chCount op = .ok reg)
    (hreg : reg ≤ s.cfg.regAddrMax) (hd : s.nextDraw = some d)
    (hi : i = .regWrite op data ∨ i = .dbgWrite reg data) :
    exec i s = .next (s.writeDone reg data d) := by
  have hrun op' (ha' : operandAddress s.chCount op' = .ok reg) :
      exec (.regWrite op' data) s = .next (s.writeDone reg data d) := by
    rw [exec_regWrite_valid h ha' hreg, hd]
    rfl
  rcases hi with rfl | rfl
  · exact hrun op ha
  · exact hrun (.direct reg) rfl

/-- How REG.READ can go on: rejected, or one answered exchange. -/
theorem exec_regRead_next (hn : exec (.regRead op) s = .next t) :
    (s.Rejects op ∧ t = s.raise .invalidArgument) ∨
    ∃ reg d, operandAddress s.chCount op = .ok reg ∧ reg ≤ s.cfg.regAddrMax ∧ s.nextDraw = some d ∧
      t = s.readDone reg d := by
  have h : s.Ready := ready_of_exec_next rfl hn
  by_cases hop : s.Rejects op
  · rw [exec_regRead_rejects h hop] at hn
    cases hn
    exact .inl ⟨hop, rfl⟩
  · obtain ⟨reg, ha, hreg⟩ := State.addresses_of_not_rejects hop
    rw [exec_regRead_valid h ha hreg] at hn
    obtain ⟨d, hd, rfl⟩ := exists_draw_of_next hn
    exact .inr ⟨reg, d, ha, hreg, hd, rfl⟩

/-- How REG.WRITE can go on: rejected, or one answered exchange. -/
theorem exec_regWrite_next (hn : exec (.regWrite op data) s = .next t) :
    (s.Rejects op ∧ t = s.raise .invalidArgument) ∨
    ∃ reg d, operandAddress s.chCount op = .ok reg ∧ reg ≤ s.cfg.regAddrMax ∧ s.nextDraw = some d ∧
      t = s.writeDone reg data d := by
  have h : s.Ready := ready_of_exec_next rfl hn
  by_cases hop : s.Rejects op
  · rw [exec_regWrite_rejects h hop] at hn
    cases hn
    exact .inl ⟨hop, rfl⟩
  · obtain ⟨reg, ha, hreg⟩ := State.addresses_of_not_rejects hop
    rw [exec_regWrite_valid h ha hreg] at hn
    obtain ⟨d, hd, rfl⟩ := exists_draw_of_next hn
    exact .inr ⟨reg, d, ha, hreg, hd, rfl⟩

/-- Settles O18: an answered read ends in its end state, which is that of an access. -/
theorem readCompletesWithTheAnswer : Obligations.ReadCompletesWithTheAnswer := by
  intro s op reg d i h ha hreg hd hi
  exact ⟨_, exec_read_answered h ha hreg (State.nextDraw_of_answersNext hd) hi,
    State.accessed_completes true d _ (fbFrame_requestBytes _ _ _ _)⟩

/-- Settles O20: so does an answered write, whatever the bytes received. -/
theorem writeCompletes : Obligations.WriteCompletes := by
  intro s op reg data d i h ha hreg hd hi
  exact ⟨_, exec_write_answered h ha hreg (State.nextDraw_of_answersNext hd) hi,
    State.accessed_completes true d _ (fbFrame_requestBytes _ _ _ _)⟩

/-! ### What an access does to the device -/

theorem State.readDone_readFrom (hv : s.cfg.Valid) (reg : Nat) (d : Draw) :
    ReadFrom s (s.readDone reg d) d (readTook true d) (linkKey s.cfg s.chipAddr reg) :=
  linkAddr_ctrl s.cfg s.chipAddr reg false ▸
    readFrom_of_after (ctrl_getLsbD_zero hv s.chipAddr reg false) rfl rfl

theorem State.writeDone_wroteTo (hv : s.cfg.Valid) (reg : Nat) (data : Byte) (d : Draw) :
    WroteTo s (s.writeDone reg data d) d (linkKey s.cfg s.chipAddr reg) data :=
  linkAddr_ctrl s.cfg s.chipAddr reg true ▸
    wroteTo_of_after (ctrl_getLsbD_zero hv s.chipAddr reg true) rfl rfl

/-- Settles O21: both write operations that go on end in the write's end state. -/
theorem writeStoresToOneRemoteRegister : Obligations.WriteStoresToOneRemoteRegister := by
  intro s t op reg data d i hv ha hreg hd hi hn
  have hneeds : needsInstance i = true := by rcases hi with rfl | rfl <;> rfl
  have hrun := exec_write_answered (ready_of_exec_next hneeds hn) ha hreg
    (State.nextDraw_of_answersNext hd) hi
  cases hrun.symm.trans hn
  exact State.writeDone_wroteTo hv reg data d

/-! ### The response to a write -/

/-- Two writes whose answers differ in the received bytes end alike but for `FB`: what the frame does to the
device does not depend on these bytes (R72). -/
theorem State.writeDone_rx {rest : List Exchange} {rx : FrameBuffer} (hs : s.script = .answered d :: rest)
    (hrx : d.answer = .ok rx) (rx' : FrameBuffer) :
    SameButFrameBuffer (s.writeDone reg data d)
      (State.writeDone { s with script := .answered { d with answer := .ok rx' } :: rest } reg data
        { d with answer := .ok rx' }) := by
  obtain ⟨⟩ := s
  obtain ⟨⟩ := d
  cases hs
  cases hrx
  rfl

/-- Settles O22: neither the operand check nor the write's end, `FB` apart, looks at the received bytes. -/
theorem writeResponseNotExamined : Obligations.WriteResponseNotExamined := by
  intro s t op data d rx rx' rest i addr hs hrx hi hn
  obtain ⟨op, hop⟩ : ∃ op, ∀ u, exec i u = exec (.regWrite op data) u := by
    rcases hi with rfl | rfl
    · exact ⟨op, fun _ => rfl⟩
    · exact ⟨.direct addr, fun _ => rfl⟩
  rw [hop] at hn ⊢
  have h : State.Ready { s with script := .answered { d with answer := .ok rx' } :: rest } :=
    ready_of_exec_next (s := s) (i := .regWrite op data) rfl hn
  rcases exec_regWrite_next hn with ⟨hrej, rfl⟩ | ⟨reg, d', ha, hreg, hd, rfl⟩
  · exact ⟨_, exec_regWrite_rejects h hrej, rfl, absurd rfl⟩
  · have hdraw : s.nextDraw = some d := State.nextDraw_of_answersNext (congrArg List.head? hs)
    cases hdraw.symm.trans hd
    refine ⟨_, exec_write_answered h ha hreg (State.nextDraw_of_answersNext rfl) (.inl rfl), ?_,
      fun _ => State.writeDone_rx hs hrx rx'⟩
    rw [State.writeDone_result, State.writeDone_result, hrx]
    rfl

/-! ### An update -/

/-- The update of an operand's register is its read and, on success, its write: the read leaves the operand
standing for what it stood for (R73). -/
theorem State.atOperand_update (s : State) (op : RegOperand) (mask value : Byte) :
    (s.atOperand op fun a => s.updateRegister a mask value) =
      thenOnOk (s.atOperand op s.readRegister) fun u old =>
        u.atOperand op fun a => u.writeRegister a (maskedUpdate old mask value) := by
  cases ha : operandAddress s.chCount op with
  | error k => rw [State.atOperand_error ha, State.atOperand_error ha]; rfl
  | ok reg =>
    rw [State.atOperand_ok ha, State.atOperand_ok ha, State.updateRegister_eq]
    cases hr : s.readRegister reg with
    | none => rfl
    | some p =>
      obtain ⟨u, k | old⟩ := p
      · rfl
      · obtain ⟨-, -, -, hch, -⟩ := (s.readRegister_exchangesOnly reg _ hr).configuration
        have ha' : operandAddress u.chCount op = .ok reg := hch ▸ ha
        exact (State.atOperand_ok (body := fun a => u.writeRegister a (maskedUpdate old mask value)) ha').symm

/-- A write begun where another operation has ended is the write begun inside it: `BUSY`, `PHASE` and the
last result do not matter, which its own end sets. -/
theorem exec_regWrite_complete (hlive : s.live = true) (r : Except ErrorKind Value) :
    exec (.regWrite op data) (s.complete r) =
      finish ((s.atOperand op fun a => s.writeRegister a data).map asUnit) := by
  rw [exec_regWrite_ready (s := s.complete r) ⟨hlive, rfl⟩]
  cases ha : operandAddress s.chCount op with
  | error k =>
    rw [State.atOperand_error ha, State.atOperand_error (s := (s.complete r).entered) ha]
    rfl
  | ok reg =>
    rw [State.atOperand_ok ha, State.atOperand_ok (s := (s.complete r).entered) ha]
    cases hv : regValid s.cfg reg with
    | false =>
      rw [State.writeRegister_invalid hv, State.writeRegister_invalid (s := (s.complete r).entered) hv]
      rfl
    | true =>
      rw [State.writeRegister_valid hv, State.writeRegister_valid (s := (s.complete r).entered) hv,
        finish_sendWrite, finish_sendWrite]
      rfl

/-- Settles O23: the update's write begins where its read leaves the state, and so does a write after a
read. -/
theorem updateIsReadThenWrite : Obligations.UpdateIsReadThenWrite := by
  intro s t op mask value hn
  obtain ⟨h, u, v, hb, rfl⟩ := State.onInstance_next (show execRegRead op s = .next t from hn)
  obtain ⟨⟨u, o⟩, hread, hend⟩ := Option.map_eq_some_iff.mp hb
  cases hend
  obtain ⟨-, -, -, -, hlive, -⟩ := (s.entered.atOperand_exchangesOnly op
    s.entered.readRegister_exchangesOnly _ hread).configuration
  rw [exec_regUpdate_ready h, State.atOperand_update, hread]
  cases o with
  | error k => exact ⟨fun _ hr => (nomatch hr), fun _ _ => rfl⟩
  | ok b =>
    refine ⟨fun old hr => ?_, fun _ hr => nomatch hr⟩
    cases hr
    exact (exec_regWrite_complete (hlive.trans h.1) _).symm

theorem State.readDone_remote (hv : s.cfg.Valid) (reg : Nat) (d : Draw) :
    (s.readDone reg d).remote =
      memoryChange (memoryChange s.remote d.drift) (if readTook true d then d.readEffect else []) :=
  remoteAfter_read hv s.remote true s.chipAddr reg 0x00 d

/-- An answered read frame of the block's own took effect (R71; log 28). -/
theorem readTook_of_answered {rx : FrameBuffer} (h : d.answer = .ok rx) : readTook true d = true := by
  obtain ⟨⟩ := d
  cases h
  rfl

/-- Settles O24: the read delivers its byte, so the update is the write of the combination from where the
read ends. -/
theorem updateCompletesInTwoExchanges : Obligations.UpdateCompletesInTwoExchanges := by
  intro s op reg mask value d₁ d₂ rest rx hv h ha hreg hs hrx hintact
  have hread : exec (.regRead op) s = .next (s.readDone reg d₁) :=
    exec_read_answered h ha hreg (State.nextDraw_of_answersNext (congrArg List.head? hs)) (.inl rfl)
  have hbyte : (s.readDone reg d₁).result = some (.ok (.byte rx.b1)) :=
    congrArg some ((congrArg (readResult s.cfg s.crcEn) hrx).trans (readResult_intact hintact))
  have htail : (s.readDone reg d₁).script = .answered d₂ :: rest := congrArg List.tail hs
  have hwrite := exec_write_answered (s := s.readDone reg d₁)
    (i := .regWrite op (maskedUpdate rx.b1 mask value)) ⟨h.1, rfl⟩ ha hreg
    (State.nextDraw_of_answersNext (congrArg List.head? htail)) (.inl rfl)
  have htook := readTook_of_answered hrx
  obtain ⟨hwritten, hothers, hlatches⟩ :=
    State.writeDone_wroteTo (s := s.readDone reg d₁) hv reg (maskedUpdate rx.b1 mask value) d₂
  obtain ⟨-, hcleared⟩ := (State.readDone_readFrom hv reg d₁).1 htook
  have hupdate := (updateIsReadThenWrite s _ op mask value hread).1 _ hbyte
  refine ⟨_, hupdate.trans hwrite, State.writeDone_result, ?_, congrArg List.tail htail, rfl, rfl, ?_,
    hwritten, ?_, ?_⟩
  · rw [State.writeDone_sent, State.readDone_sent, List.append_assoc]
    rfl
  · exact ((s.accessed_exchangesOnly _ true d₁ _).trans
      (State.accessed_exchangesOnly _ _ true d₂ _)).configuration
  · intro a ha
    rw [hothers a ha, State.readDone_remote hv, htook]
    rfl
  · intro x
    exact (hlatches x).trans (or_congr_left (hcleared x))

/-! ### Counting exchanges -/

/-- A read that goes on made one exchange, or none when its operand was rejected (R78). -/
theorem exec_regRead_sent (hn : exec (.regRead op) s = .next t) :
    t.sent.length = s.sent.length + if t.result = some (.err .invalidArgument) then 0 else 1 := by
  rcases exec_regRead_next hn with ⟨-, rfl⟩ | ⟨reg, d, -, -, -, rfl⟩
  · exact (if_pos rfl).symm ▸ rfl
  · rw [State.readDone_result, if_neg fun h => readResult_ne_invalidArgument _ _ _ (Option.some.inj h),
      State.readDone_sent, List.length_append, List.length_singleton]

/-- A write that goes on made one exchange, or none when its operand was rejected (R78). -/
theorem exec_regWrite_sent (hn : exec (.regWrite op data) s = .next t) :
    t.sent.length = s.sent.length + if t.result = some (.err .invalidArgument) then 0 else 1 := by
  rcases exec_regWrite_next hn with ⟨-, rfl⟩ | ⟨reg, d, -, -, -, rfl⟩
  · exact (if_pos rfl).symm ▸ rfl
  · rw [State.writeDone_result, if_neg fun h => writeResult_ne_invalidArgument _ (Option.some.inj h),
      State.writeDone_sent, List.length_append, List.length_singleton]

/-- REG.READ returns nothing but bytes. -/
theorem exec_regRead_value {v : Value} (hn : exec (.regRead op) s = .next t)
    (hv : t.result = some (.ok v)) : ∃ old, v = .byte old := by
  obtain ⟨o, ho⟩ := regRead_returns hn
  cases o with
  | error k => cases ho.symm.trans hv
  | ok old =>
    cases ho.symm.trans hv
    exact ⟨old, rfl⟩

/-- Settles O29: an update ends as its read when that fails, and adds its write's exchange, of the same valid
address, when it does not. -/
theorem exchangeCountsPerOperation : Obligations.ExchangeCountsPerOperation := by
  refine ⟨fun s t op addr data i hi hn => ?_, fun s t r op mask value hread hn => ?_⟩
  · rcases hi with rfl | rfl | rfl | rfl
    · exact exec_regRead_sent hn
    · exact exec_regWrite_sent hn
    · exact exec_regRead_sent (op := .direct addr) hn
    · exact exec_regWrite_sent (op := .direct addr) hn
  obtain ⟨hok, herror⟩ := updateIsReadThenWrite s r op mask value hread
  have hcount := exec_regRead_sent hread
  refine ⟨fun hr => ?_, fun k hr hk => ?_, fun v hr => ?_⟩
  · cases (herror _ hr).symm.trans hn
    rwa [if_pos hr] at hcount
  · cases (herror _ hr).symm.trans hn
    rwa [if_neg fun h => hk (Result.err.inj (Option.some.inj (hr.symm.trans h)))] at hcount
  · obtain ⟨old, rfl⟩ := exec_regRead_value hread hr
    rw [hok old hr] at hn
    rcases exec_regRead_next hread with ⟨-, rfl⟩ | ⟨reg, d, ha, hreg, -, rfl⟩
    · cases hr
    rcases exec_regWrite_next hn with ⟨hrej, -⟩ | ⟨reg', d', -, -, -, rfl⟩
    · exact absurd hrej (State.not_rejects (s := s.readDone reg d) ha hreg)
    · rw [State.writeDone_sent, State.readDone_sent, List.append_assoc, List.length_append]
      rfl

/-! ### The masked combination -/

theorem maskedUpdate_getLsbD (old mask value : Byte) {k : Nat} (hk : k < 8) :
    (maskedUpdate old mask value).getLsbD k =
      if mask.getLsbD k then value.getLsbD k else old.getLsbD k := by
  have hbits : maskedUpdate old mask value = (old &&& ~~~mask) ||| (value &&& mask) := rfl
  rw [hbits, BitVec.getLsbD_or, BitVec.getLsbD_and, BitVec.getLsbD_and, BitVec.getLsbD_not,
    decide_eq_true hk]
  cases mask.getLsbD k with
  | false => rw [Bool.not_false, Bool.and_true, Bool.and_true, Bool.and_false, Bool.or_false]; rfl
  | true => rw [Bool.not_true, Bool.and_false, Bool.and_false, Bool.and_true, Bool.false_or]; rfl

/-- Settles O25: one mask has all bits 0, the other all bits 1. -/
theorem maskedUpdateBits : Obligations.MaskedUpdateBits := by
  intro old mask value
  refine ⟨fun k hk => maskedUpdate_getLsbD old mask value hk, ?_, ?_⟩
  · show (old &&& ~~~0#8) ||| (value &&& 0#8) = old
    rw [BitVec.not_zero, BitVec.and_allOnes, BitVec.and_zero, BitVec.or_zero]
  · show (old &&& ~~~BitVec.allOnes 8) ||| (value &&& BitVec.allOnes 8) = value
    rw [BitVec.not_allOnes, BitVec.and_zero, BitVec.and_allOnes, BitVec.zero_or]

end Sys2Proof.Machine
end
